-- ==== Sys2Proof/Word.lean ====
section
/-! DEFINITION. The word types of the block: bytes (registers, memory cells, timers), 16-bit words (opcodes, I, PC,
stack slots) and register indexes. Spec: 00_scope.md R8, R9; 10_state.md R24. -/

namespace Sys2Proof

/-- An unsigned 8-bit value: a register, a memory cell, a timer, an immediate NN (R8). -/
abbrev Byte := BitVec 8

/-- An unsigned 16-bit value: an opcode, I, PC, a stack slot (R8). -/
abbrev Word := BitVec 16

/-- The index of a general register V0..VF; also a key number 0..F (R24, R39). -/
abbrev Reg := Fin 16

/-- `zext_16` of a byte: the same value with zero high bits (R10). -/
def Byte.zext (b : Byte) : Word := b.setWidth 16

end Sys2Proof
end

