-- ==== Sys2Proof/Syntax.lean ====
section
/-! DEFINITION. The instruction set: one constructor per row of spec/opcode_table.json, the 33 patterns of
30_encoding.md R83. Constructor names follow the decode constructors of R87. -/

namespace Sys2Proof

/-- The 33 instructions (R83). A register operand is an index `Reg`; NN is a byte; NNN is carried as the 16-bit value
`zext_16(NNN)` that PC or I takes (R82), its range 0..0xFFF being checked by `Instr.wf`; N is the sprite height, its
range 0..15 checked by `Instr.wf`. -/
inductive Instr where
  /-- `00E0` CLS -/
  | cls
  /-- `00EE` RET -/
  | ret
  /-- `1NNN` JP nnn -/
  | jp (nnn : Word)
  /-- `2NNN` CALL nnn -/
  | call (nnn : Word)
  /-- `3XNN` SE Vx, nn -/
  | seImm (x : Reg) (nn : Byte)
  /-- `4XNN` SNE Vx, nn -/
  | sneImm (x : Reg) (nn : Byte)
  /-- `5XY0` SE Vx, Vy -/
  | seReg (x y : Reg)
  /-- `6XNN` LD Vx, nn -/
  | ldImm (x : Reg) (nn : Byte)
  /-- `7XNN` ADD Vx, nn -/
  | addImm (x : Reg) (nn : Byte)
  /-- `8XY0` LD Vx, Vy -/
  | ldReg (x y : Reg)
  /-- `8XY1` OR Vx, Vy -/
  | or (x y : Reg)
  /-- `8XY2` AND Vx, Vy -/
  | and (x y : Reg)
  /-- `8XY3` XOR Vx, Vy -/
  | xor (x y : Reg)
  /-- `8XY4` ADD Vx, Vy -/
  | addReg (x y : Reg)
  /-- `8XY5` SUB Vx, Vy -/
  | sub (x y : Reg)
  /-- `8XY6` SHR Vx, Vy; the Y field is not read (R134) -/
  | shr (x y : Reg)
  /-- `8XY7` SUBN Vx, Vy -/
  | subn (x y : Reg)
  /-- `8XYE` SHL Vx, Vy; the Y field is not read (R134) -/
  | shl (x y : Reg)
  /-- `9XY0` SNE Vx, Vy -/
  | sneReg (x y : Reg)
  /-- `ANNN` LD I, nnn -/
  | ldI (nnn : Word)
  /-- `CXNN` RND Vx, nn -/
  | rnd (x : Reg) (nn : Byte)
  /-- `DXYN` DRW Vx, Vy, n -/
  | drw (x y : Reg) (n : Nat)
  /-- `EX9E` SKP Vx -/
  | skp (x : Reg)
  /-- `EXA1` SKNP Vx -/
  | sknp (x : Reg)
  /-- `FX07` LD Vx, DT -/
  | ldVxDt (x : Reg)
  /-- `FX0A` LD Vx, K -/
  | ldVxK (x : Reg)
  /-- `FX15` LD DT, Vx -/
  | ldDtVx (x : Reg)
  /-- `FX18` LD ST, Vx -/
  | ldStVx (x : Reg)
  /-- `FX1E` ADD I, Vx -/
  | addI (x : Reg)
  /-- `FX29` LD F, Vx -/
  | ldF (x : Reg)
  /-- `FX33` LD B, Vx -/
  | ldB (x : Reg)
  /-- `FX55` LD [I], Vx -/
  | ldMemVx (x : Reg)
  /-- `FX65` LD Vx, [I] -/
  | ldVxMem (x : Reg)
  deriving DecidableEq, Repr

end Sys2Proof
end

