-- ==== Sys2Proof/WellFormed.lean ====
section
/-! DEFINITION. Which instruction terms a word can carry: the operand ranges of 30_encoding.md R81 and R82. Register
indexes and bytes are in range by their types; the 12-bit addresses and the 4-bit sprite height are checked here. -/

namespace Sys2Proof

/-- NNN is a 12-bit address: "written to PC or I as a 16-bit value with bits 15..12 zero" (R82). -/
def Word.isAddress12 (nnn : Word) : Bool := decide (nnn.toNat < 4096)

/-- N is 0..15 (R82). -/
def isNibble (n : Nat) : Bool := decide (n < 16)

/-- The operands fit the fields of the instruction's pattern (R81, R82). -/
def Instr.wf : Instr → Bool
  | .cls => true
  | .ret => true
  | .jp nnn => nnn.isAddress12
  | .call nnn => nnn.isAddress12
  | .seImm _ _ => true
  | .sneImm _ _ => true
  | .seReg _ _ => true
  | .ldImm _ _ => true
  | .addImm _ _ => true
  | .ldReg _ _ => true
  | .or _ _ => true
  | .and _ _ => true
  | .xor _ _ => true
  | .addReg _ _ => true
  | .sub _ _ => true
  | .shr _ _ => true
  | .subn _ _ => true
  | .shl _ _ => true
  | .sneReg _ _ => true
  | .ldI nnn => nnn.isAddress12
  | .rnd _ _ => true
  | .drw _ _ n => isNibble n
  | .skp _ => true
  | .sknp _ => true
  | .ldVxDt _ => true
  | .ldVxK _ => true
  | .ldDtVx _ => true
  | .ldStVx _ => true
  | .addI _ => true
  | .ldF _ => true
  | .ldB _ => true
  | .ldMemVx _ => true
  | .ldVxMem _ => true

end Sys2Proof
end

