-- ==== Sys2Proof/Config.lean ====
section
/-! DEFINITION. The fixed parameters of 00_scope.md R6, and the free random draw of R7. The font table, which R7 also
leaves to the implementation, stands in Machine/Ops.lean (`fontGlyphs`). -/

namespace Sys2Proof.Config

/-- `MEM_SIZE`: 4096 bytes, addresses 0x000 to 0xFFF (R6). -/
def memSize : Nat := 4096

/-- `PROG_BASE`: programs are loaded at, and start at, 0x200 (R6). -/
def progBase : Nat := 0x200

/-- `MAX_ROM`: 4096 - 0x200 bytes (R6). -/
def maxRom : Nat := 3584

/-- `FONT_BASE` (R6). -/
def fontBase : Nat := 0x050

/-- `FONT_LEN`: 16 glyphs of 5 bytes (R6). -/
def fontLen : Nat := 80

/-- `RndDraw` (R7, D13): the random byte of the n-th CXNN that no rnd_byte of the host fixes. A FREE VALUE: it has no
body, so nothing can be proved of it or of two draws together (DESIGN CHOICE of the form, log 4; safe). -/
opaque rndDraw : Nat → Byte

end Sys2Proof.Config
end

