-- ==== Sys2Proof/Machine/State.lean ====
section
/-! DEFINITION. The state of the block as plain data (10_state.md R20, R46), the fault record (60_exceptions.md R197),
the reasons a step can stop, and the state after Initialize. -/

namespace Sys2Proof.Machine

/-- The attached memory (R21): a sparse list of cells in canonical form (`Memory.wf`, Machine/Ops.lean): addresses
strictly rising and below 4096, no cell equal to what an unlisted address reads as (`Memory.background`). -/
abbrev Memory := List Host.Cell

/-- The framebuffer (R37): 32 rows, top to bottom; bit x of row y is the cell FB(x, y), 1 is lit. -/
abbrev Display := Vector (BitVec 64) 32

/-- Which access an OutOfBounds fault was for (R197). -/
inductive AccessKind where
  | fetch
  | data
  | keypad
  deriving DecidableEq, Repr

/-- The four faults of a Step (R195). -/
inductive FaultKind where
  | outOfBounds
  | stackOverflow
  | stackUnderflow
  | unknownOpcode
  deriving DecidableEq, Repr

/-- The `kind` of a fault record together with the `info` R197 gives that kind. -/
inductive FaultCause where
  /-- the access kind, the base address or key index, and the length -/
  | outOfBounds (access : AccessKind) (base len : Nat)
  /-- the value of SP (16) -/
  | stackOverflow (sp : Nat)
  /-- the value of SP (0) -/
  | stackUnderflow (sp : Nat)
  /-- nothing beyond the record's opcode -/
  | unknownOpcode
  deriving DecidableEq, Repr

/-- `FaultRecord(kind, pc, opcode, info)` (R197). -/
structure FaultRecord where
  /-- kind and info -/
  cause : FaultCause
  /-- PC at the start of the faulting step -/
  pc : Word
  /-- the fetched word, or none when the fetch itself failed -/
  opcode : Option Word
  deriving DecidableEq, Repr

/-- `runStatus` (R41). -/
inductive RunStatus where
  | running
  | halted (record : FaultRecord)
  deriving DecidableEq, Repr

/-- Why a step stops. A fault that an instruction raises is TAKEN as a next state (log 1), so there is one reason. -/
inductive Fault where
  /-- Raised by `step` alone, on a core that is already halted: "a Step changes no state and returns Fault(record)
  again" (R200). No instruction raises it. Safe: nothing runs past it. -/
  | halted (record : FaultRecord)
  deriving DecidableEq, Repr

/-- Why an instruction has no meaning. -/
inductive Refusal where
  /-- Raised by an arm of `exec` whose instruction has no meaning yet; no arm does. Safe: the model stops. -/
  | notModelled (mnemonic : String)
  deriving DecidableEq, Repr

/-- The state of the block (R20). Every element of R20's tuple is a field under the spec's name; the last two fields are
the model's own and carry the random input of CXNN (R7; log 4). -/
structure State where
  /-- 4096 bytes (R21) -/
  memory : Memory
  /-- V[0..15] (R24) -/
  V : Vector Byte 16
  /-- the index register (R27) -/
  I : Word
  /-- the program counter (R28) -/
  PC : Word
  /-- the call stack's 16 slots (R31) -/
  stack : Vector Word 16
  /-- how many slots are in use, 0..16 (R31) -/
  SP : Fin 17
  /-- delayTimer (R35) -/
  DT : Byte
  /-- soundTimer (R35) -/
  ST : Byte
  /-- 64 x 32 cells (R37) -/
  display : Display
  /-- set by every completed 00E0 and DXYN, cleared by the host (R38) -/
  redrawRequested : Bool
  /-- bit k is 1 when key k is down (R39) -/
  keypad : BitVec 16
  /-- the most recently fetched word (R40) -/
  currentOpcode : Word
  /-- Running or Halted(record) (R41) -/
  runStatus : RunStatus
  /-- MODEL'S OWN: the byte the host drives on rnd_byte (R44); none: the draw is free (log 4) -/
  rndPort : Option Byte
  /-- MODEL'S OWN: how many draws CXNN has made; the argument of the opaque Config.rndDraw (log 4) -/
  rndCount : Nat
  deriving DecidableEq, Repr

/-- The state after Initialize (R46, R230): memory with nothing listed (an unlisted address reads as Initialize leaves
it), PC = 0x200 (D4), I, SP, DT, ST, currentOpcode and redrawRequested 0 (D5; log 6), Running. The values of rndPort and
rndCount are the model's own (DESIGN CHOICE, log 4). -/
def State.reset : State where
  memory := []
  V := Vector.replicate 16 0x00#8
  I := 0x0000#16
  PC := 0x0200#16
  stack := Vector.replicate 16 0x0000#16
  SP := 0
  DT := 0x00#8
  ST := 0x00#8
  display := Vector.replicate 32 0#64
  redrawRequested := false
  keypad := 0x0000#16
  currentOpcode := 0x0000#16
  runStatus := .running
  rndPort := none
  rndCount := 0

end Sys2Proof.Machine
end

