-- ==== Sys2Proof/Machine/Ops.lean ====
section
/-! DEFINITION. The named operations over memory, registers, the program counter, the call stack, the framebuffer and the
run status, and taking a fault. Spec: 00_scope.md R11, R12; 10_state.md; 20_memory.md; 60_exceptions.md R195 to R202. -/

namespace Sys2Proof.Machine

/-! ## Memory -/

/-- The default FONT_GLYPHS of R22: 16 glyphs of 5 bytes. PRESUMED: the source gives no bytes, the table is the spec's
conventional default (G1, D6; log 2). Unsafe for a claim about font pixels. -/
def fontGlyphs : List Byte :=
  [0xF0, 0x90, 0x90, 0x90, 0xF0] ++ [0x20, 0x60, 0x20, 0x20, 0x70] ++
  [0xF0, 0x10, 0xF0, 0x80, 0xF0] ++ [0xF0, 0x10, 0xF0, 0x10, 0xF0] ++
  [0x90, 0x90, 0xF0, 0x10, 0x10] ++ [0xF0, 0x80, 0xF0, 0x10, 0xF0] ++
  [0xF0, 0x80, 0xF0, 0x90, 0xF0] ++ [0xF0, 0x10, 0x20, 0x40, 0x40] ++
  [0xF0, 0x90, 0xF0, 0x90, 0xF0] ++ [0xF0, 0x90, 0xF0, 0x10, 0xF0] ++
  [0xF0, 0x90, 0xF0, 0x90, 0x90] ++ [0xE0, 0x90, 0xE0, 0x90, 0xE0] ++
  [0xF0, 0x80, 0x80, 0x80, 0xF0] ++ [0xE0, 0x90, 0x90, 0x90, 0xE0] ++
  [0xF0, 0x80, 0xF0, 0x80, 0xF0] ++ [0xF0, 0x80, 0xF0, 0x80, 0x80]

/-- What an address that memory does not list reads as: what Initialize leaves there (R46, R230; log 3). -/
def Memory.background (a : Nat) : Byte :=
  if Config.fontBase ≤ a then fontGlyphs.getD (a - Config.fontBase) 0x00#8 else 0x00#8

/-- `MemRead(a, 1)` (R11, R66). -/
def Memory.read : Memory → Nat → Byte
  | [], a => Memory.background a
  | (b, v) :: rest, a => if a = b then v else Memory.read rest a

/-- Put a cell into its place in a list of rising addresses. -/
def Memory.insert (a : Nat) (v : Byte) : Memory → Memory
  | [] => [(a, v)]
  | (b, w) :: rest => if a < b then (a, v) :: (b, w) :: rest else (b, w) :: Memory.insert a v rest

/-- Drop what the list says of an address. -/
def Memory.erase (a : Nat) : Memory → Memory
  | [] => []
  | (b, w) :: rest => if a = b then Memory.erase a rest else (b, w) :: Memory.erase a rest

/-- `MemWrite(a, 1, v)` (R11, R66): writing what an unlisted address reads as removes the cell. -/
def Memory.write (m : Memory) (a : Nat) (v : Byte) : Memory :=
  if v = Memory.background a then Memory.erase a m else Memory.insert a v (Memory.erase a m)

/-- Every address listed is above `lo` and below 4096, rising, and holds something other than the background. -/
def Memory.wfAbove (lo : Nat) : Memory → Bool
  | [] => true
  | (b, w) :: rest =>
    decide (lo ≤ b) && decide (b < Config.memSize) && decide (w ≠ Memory.background b) && Memory.wfAbove (b + 1) rest

/-- The canonical form of memory. -/
def Memory.wf (m : Memory) : Bool := Memory.wfAbove 0 m

/-- Is the range `a .. a + n - 1` in bounds (R12, R65)? On unbounded integers; a range of no bytes checks nothing. -/
def inBounds (a n : Nat) : Bool := decide (n = 0) || decide (a + n - 1 ≤ 0xFFF)

/-! ## Named updates of the state, one per field -/

def State.setMemory (s : State) (m : Memory) : State := { s with memory := m }
def State.setV (s : State) (v : Vector Byte 16) : State := { s with V := v }
def State.setI (s : State) (i : Word) : State := { s with I := i }
def State.setPC (s : State) (pc : Word) : State := { s with PC := pc }
def State.setStack (s : State) (st : Vector Word 16) : State := { s with stack := st }
def State.setSP (s : State) (sp : Fin 17) : State := { s with SP := sp }
def State.setDT (s : State) (t : Byte) : State := { s with DT := t }
def State.setST (s : State) (t : Byte) : State := { s with ST := t }
def State.setDisplay (s : State) (d : Display) : State := { s with display := d }
def State.setRedraw (s : State) (b : Bool) : State := { s with redrawRequested := b }
def State.setKeypad (s : State) (k : BitVec 16) : State := { s with keypad := k }
def State.setOpcode (s : State) (w : Word) : State := { s with currentOpcode := w }
def State.setRunStatus (s : State) (r : RunStatus) : State := { s with runStatus := r }
def State.setRndPort (s : State) (p : Option Byte) : State := { s with rndPort := p }
def State.setRndCount (s : State) (n : Nat) : State := { s with rndCount := n }

/-! ## Registers (R11, R24): no register is hardwired -/

/-- `V[x]`. -/
def State.readV (s : State) (x : Reg) : Byte := s.V[x.val]

/-- `V[x] <- v`. -/
def State.writeV (s : State) (x : Reg) (v : Byte) : State := s.setV (s.V.set x.val v)

/-! ## Memory through the state -/

/-- The byte at an address. -/
def State.memRead (s : State) (a : Nat) : Byte := s.memory.read a

/-- Write the byte at an address; the callers check bounds first (R65). -/
def State.memWrite (s : State) (a : Nat) (v : Byte) : State := s.setMemory (s.memory.write a v)

/-- The `n` bytes at `a .. a + n - 1` in address order (R11). -/
def State.loadBytes (s : State) (a : Nat) : Nat → List Byte
  | 0 => []
  | n + 1 => s.memRead a :: s.loadBytes (a + 1) n

/-- Write bytes at `a, a + 1, ...` in order. -/
def State.storeBytes (s : State) (a : Nat) : List Byte → State
  | [] => s
  | v :: rest => (s.memWrite a v).storeBytes (a + 1) rest

/-! ## The program counter (R28, R29) -/

/-- `PC <- (PC + 2) mod 65536`. -/
def State.advance (s : State) : State := s.setPC (s.PC + 2#16)

/-- `PC <- (PC + 4) mod 65536`: a skip taken (R122). -/
def State.skip (s : State) : State := s.setPC (s.PC + 4#16)

/-- A skip instruction's new PC: skip when the condition holds, advance when it does not (R29, R122). -/
def State.skipIf (s : State) (c : Bool) : State := if c then s.skip else s.advance

/-! ## The call stack (R31 to R34) -/

/-- Push (R32): none when SP = 16. -/
def State.push (s : State) (v : Word) : Option State :=
  if h : s.SP.val < 16 then
    some ((s.setStack (s.stack.set s.SP.val v)).setSP ⟨s.SP.val + 1, by omega⟩)
  else none

/-- Pop (R33): none when SP = 0; the freed slot keeps its value (R34). -/
def State.pop (s : State) : Option (Word × State) :=
  if h : s.SP.val = 0 then none
  else some (s.stack[s.SP.val - 1]'(by omega), s.setSP ⟨s.SP.val - 1, by omega⟩)

/-! ## The framebuffer (R37, R102) -/

/-- `FB(x, y)`. -/
def Display.cell (d : Display) (x : Fin 64) (y : Fin 32) : Bool := d[y.val].getLsbD x.val

/-- `FB(x, y) <- FB(x, y) XOR 1`. -/
def Display.flip (d : Display) (x : Fin 64) (y : Fin 32) : Display :=
  d.set y.val (d[y.val] ^^^ BitVec.twoPow 64 x.val)

/-- Every cell unlit. -/
def Display.clear : Display := Vector.replicate 32 0#64

/-- `FB(x, y)` of the state. -/
def State.FB (s : State) (x : Fin 64) (y : Fin 32) : Bool := Display.cell s.display x y

/-- `n mod 64`: columns wrap (R102). -/
def wrapX (n : Nat) : Fin 64 := ⟨n % 64, Nat.mod_lt n (by decide)⟩

/-- `n mod 32`: rows wrap (R102). -/
def wrapY (n : Nat) : Fin 32 := ⟨n % 32, Nat.mod_lt n (by decide)⟩

/-- What the draw loop carries: the cells, and whether a lit cell has been hit. -/
structure Canvas where
  display : Display
  collision : Bool
  deriving DecidableEq, Repr

/-- One sprite bit of 1 (R101, R103): a collision if the cell is lit, then the XOR. -/
def Canvas.plot (c : Canvas) (x : Fin 64) (y : Fin 32) : Canvas where
  display := Display.flip c.display x y
  collision := c.collision || Display.cell c.display x y

/-- One bit-column of a sprite row; column 0 is bit 7 of the byte (R9, R101). -/
def Canvas.drawBit (c : Canvas) (x0 y : Nat) (b : Byte) (col : Nat) : Canvas :=
  if b.getLsbD (7 - col) then c.plot (wrapX (x0 + col)) (wrapY y) else c

/-- One row of a sprite: the 8 bit-columns, most significant bit first (R102). -/
def Canvas.drawRow (c : Canvas) (x0 y : Nat) (b : Byte) : Canvas :=
  [0, 1, 2, 3, 4, 5, 6, 7].foldl (fun c col => c.drawBit x0 y b col) c

/-- The sprite algorithm (R102): the rows top to bottom, wrapping both axes. -/
def Canvas.drawSprite (c : Canvas) (x0 y : Nat) : List Byte → Canvas
  | [] => c
  | b :: rest => (c.drawRow x0 y b).drawSprite x0 (y + 1) rest

/-! ## Taking a fault (R195 to R201)

There is no vector, no saved register, no mode and no return (R201, R202): taking a fault halts the core with its record,
and only Initialize (Machine/Transactions.lean) sets the core running again. -/

/-- The kind of a cause (R195). -/
def FaultCause.kind : FaultCause → FaultKind
  | .outOfBounds _ _ _ => .outOfBounds
  | .stackOverflow _ => .stackOverflow
  | .stackUnderflow _ => .stackUnderflow
  | .unknownOpcode => .unknownOpcode

/-- `fault_code` of a kind (R196). -/
def FaultKind.code : FaultKind → BitVec 3
  | .outOfBounds => 1
  | .stackOverflow => 2
  | .stackUnderflow => 3
  | .unknownOpcode => 4

/-- Take a fault (R198): nothing but runStatus changes; the record holds PC at the start of the step (R197). -/
def State.takeFault (s : State) (cause : FaultCause) (opcode : Option Word) : State :=
  s.setRunStatus (.halted { cause := cause, pc := s.PC, opcode := opcode })

/-- A fault after the fetch: the record's opcode is the fetched word, which the fetch left in currentOpcode (R40). -/
def State.raise (s : State) (cause : FaultCause) : State := s.takeFault cause (some s.currentOpcode)

/-! ## Instruction fetch (R61, R62) -/

/-- The word at PC, or none when `PC + 1 > 0xFFF`. -/
def State.fetchWord (s : State) : Option Word :=
  if inBounds s.PC.toNat 2 then some (wordOfBytes (s.memRead s.PC.toNat) (s.memRead (s.PC.toNat + 1))) else none

/-- The fault of a fetch out of bounds: no opcode, currentOpcode unchanged (R61, R197). -/
def State.raiseFetch (s : State) : State := s.takeFault (.outOfBounds .fetch s.PC.toNat 2) none

end Sys2Proof.Machine
end

