-- ==== Sys2Proof/Machine/Operands.lean ====
section
/-! DEFINITION. The operand forms: register lists of the block moves, the data range through I, the key a register names,
the keypad's lowest key, the decimal digits, the random byte. Spec: 30_encoding.md R81, R82; 20_memory.md R64, R65;
43_index_memory.md; 44_keypad.md; 42_register_alu.md R146. -/

namespace Sys2Proof.Machine

/-- The 16 registers, or the 16 keys, in order. -/
def allRegs : List Reg := [0, 1, 2, 3, 4, 5, 6, 7] ++ [8, 9, 10, 11, 12, 13, 14, 15]

/-- `V[0] .. V[x]` (R81: for FX55 and FX65, X is the last register). -/
def regsUpTo (x : Reg) : List Reg := allRegs.filter (fun k => decide (k ≤ x))

/-- The flag register VF (R25). -/
def VF : Reg := 15

/-- The values of `V[0..x]` in order. -/
def State.blockOf (s : State) (x : Reg) : List Byte := (regsUpTo x).map s.readV

/-- `V[k] <- MemRead(a + k, 1)` for each listed register (R165). -/
def State.loadRegs (s : State) (a : Nat) : List Reg → State
  | [] => s
  | k :: rest => (s.writeV k (s.memRead (a + k.val))).loadRegs a rest

/-- The address I as an unbounded integer (R12). -/
def State.addrI (s : State) : Nat := s.I.toNat

/-- The data range `I .. I + n - 1` is in bounds (R65). -/
def State.dataOk (s : State) (n : Nat) : Bool := inBounds s.addrI n

/-- The fault of a data range out of bounds (R65). -/
def State.raiseData (s : State) (n : Nat) : State := s.raise (.outOfBounds .data s.addrI n)

/-- The key `V[x]` names, or none when `V[x] > 0xF` (R178). -/
def State.keyOf (s : State) (x : Reg) : Option Reg :=
  if h : (s.readV x).toNat < 16 then some ⟨(s.readV x).toNat, h⟩ else none

/-- The fault of a key index above 0xF (R178). -/
def State.raiseKey (s : State) (x : Reg) : State := s.raise (.outOfBounds .keypad (s.readV x).toNat 1)

/-- `key[k] = 1` (R39). -/
def State.keyDown (s : State) (k : Reg) : Bool := s.keypad.getLsbD k.val

/-- The least k with `key[k] = 1` (R177). -/
def State.lowestKey (s : State) : Option Reg := allRegs.find? s.keyDown

/-- A key number as a byte. -/
def keyByte (k : Reg) : Byte := BitVec.ofNat 8 k.val

/-- Hundreds, tens, ones of a byte (R163). -/
def bcdDigits (v : Byte) : List Byte :=
  [BitVec.ofNat 8 (v.toNat / 100), BitVec.ofNat 8 (v.toNat / 10 % 10), BitVec.ofNat 8 (v.toNat % 10)]

/-- The random byte of this step (R7, R146): what the host drives on rnd_byte, or a free draw (log 4). -/
def State.rndByte (s : State) : Byte :=
  match s.rndPort with
  | some b => b
  | none => Config.rndDraw s.rndCount

/-- One more draw has been made. -/
def State.countDraw (s : State) : State := s.setRndCount (s.rndCount + 1)

end Sys2Proof.Machine
end

