-- ==== Sys2Proof/Machine/Flags.lean ====
section
/-! DEFINITION. The one flag, VF (10_state.md R42), and how each flag writer computes it (42_register_alu.md R141 to R145,
40_display.md R103). -/

namespace Sys2Proof.Machine

/-- A flag value as a byte: 1 or 0 (R42). -/
def flagByte (b : Bool) : Byte := if b then 0x01#8 else 0x00#8

/-- `8XY4`: carry, 1 when the sum is above 255 (R141). -/
def carry (a b : Byte) : Bool := decide (a.toNat + b.toNat > 255)

/-- `8XY5`, `8XY7`: no borrow, 1 when the minuend is not below the subtrahend (R142, R144). -/
def noBorrow (a b : Byte) : Bool := decide (a.toNat ≥ b.toNat)

/-- `8XY6`: the bit shifted out on the right (R143). -/
def shiftedOutRight (a : Byte) : Bool := a.getLsbD 0

/-- `8XYE`: the bit shifted out on the left (R145). -/
def shiftedOutLeft (a : Byte) : Bool := a.getLsbD 7

/-- Write the result and then the flag: "the flag is written last" (R132), so the flag wins when x = F (D8; log 7). -/
def State.writeWithFlag (s : State) (x : Reg) (v : Byte) (flag : Bool) : State :=
  (s.writeV x v).writeV VF (flagByte flag)

end Sys2Proof.Machine
end

