-- ==== Sys2Proof/Machine/ControlFlow.lean ====
section
/-! DEFINITION. Return, jump, call and the register skips. Spec: 41_control_flow.md. -/

namespace Sys2Proof.Machine

/-- `00EE` (R115, R33): the popped value is the address of the call, so 2 is added (D7; log 8). -/
def execRet (s : State) : Host.Outcome State Fault Refusal :=
  match s.pop with
  | some (a, t) => .next (t.setPC (a + 2#16))
  | none => .next (s.raise (.stackUnderflow s.SP.val))

/-- `1NNN` (R116). -/
def execJp (nnn : Word) (s : State) : Host.Outcome State Fault Refusal :=
  .next (s.setPC nnn)

/-- `2NNN` (R117, R32): pushes its own address (D7; log 8). -/
def execCall (nnn : Word) (s : State) : Host.Outcome State Fault Refusal :=
  match s.push s.PC with
  | some t => .next (t.setPC nnn)
  | none => .next (s.raise (.stackOverflow s.SP.val))

/-- `3XNN` (R118). -/
def execSeImm (x : Reg) (nn : Byte) (s : State) : Host.Outcome State Fault Refusal :=
  .next (s.skipIf (s.readV x == nn))

/-- `4XNN` (R119). -/
def execSneImm (x : Reg) (nn : Byte) (s : State) : Host.Outcome State Fault Refusal :=
  .next (s.skipIf (s.readV x != nn))

/-- `5XY0` (R120). -/
def execSeReg (x y : Reg) (s : State) : Host.Outcome State Fault Refusal :=
  .next (s.skipIf (s.readV x == s.readV y))

/-- `9XY0` (R121). -/
def execSneReg (x y : Reg) (s : State) : Host.Outcome State Fault Refusal :=
  .next (s.skipIf (s.readV x != s.readV y))

end Sys2Proof.Machine
end

