-- ==== Sys2Proof/Machine/Display.lean ====
section
/-! DEFINITION. The display instructions and the sprite engine. Spec: 40_display.md. -/

namespace Sys2Proof.Machine

/-- `00E0` (R100): every cell unlit, redraw requested. -/
def execCls (s : State) : Host.Outcome State Fault Refusal :=
  .next ((s.setDisplay Display.clear).setRedraw true).advance

/-- The canvas a sprite of `n` rows at `(V[x], V[y])` leaves (R101, R102). -/
def State.drawn (s : State) (x y : Reg) (n : Nat) : Canvas :=
  Canvas.drawSprite { display := s.display, collision := false } (s.readV x).toNat (s.readV y).toNat
    (s.loadBytes s.addrI n)

/-- `DXYN` (R101 to R104): the bound is checked first; VF is written after the cells and after V[x] and V[y] are read. -/
def execDrw (x y : Reg) (n : Nat) (s : State) : Host.Outcome State Fault Refusal :=
  if s.dataOk n then
    .next (((s.setDisplay (s.drawn x y n).display).writeV VF (flagByte (s.drawn x y n).collision)).setRedraw true).advance
  else .next (s.raiseData n)

end Sys2Proof.Machine
end

