-- ==== Sys2Proof/Machine/IndexMemory.lean ====
section
/-! DEFINITION. The index register and the memory-block instructions. Spec: 43_index_memory.md. -/

namespace Sys2Proof.Machine

/-- `ANNN` (R160). -/
def execLdI (nnn : Word) (s : State) : Host.Outcome State Fault Refusal :=
  .next (s.setI nnn).advance

/-- `FX1E` (R161): modulo 65536, VF not written (D11; log 10). -/
def execAddI (x : Reg) (s : State) : Host.Outcome State Fault Refusal :=
  .next (s.setI (s.I + (s.readV x).zext)).advance

/-- `FX29` (R162): the full V[x] is used (D30; log 13). -/
def execLdF (x : Reg) (s : State) : Host.Outcome State Fault Refusal :=
  .next (s.setI (BitVec.ofNat 16 (Config.fontBase + 5 * (s.readV x).toNat))).advance

/-- `FX33` (R163): the bound is checked before any write (R65). -/
def execLdB (x : Reg) (s : State) : Host.Outcome State Fault Refusal :=
  if s.dataOk 3 then .next (s.storeBytes s.addrI (bcdDigits (s.readV x))).advance
  else .next (s.raiseData 3)

/-- `FX55` (R164): I is unchanged (D10; log 9). -/
def execLdMemVx (x : Reg) (s : State) : Host.Outcome State Fault Refusal :=
  if s.dataOk (x.val + 1) then .next (s.storeBytes s.addrI (s.blockOf x)).advance
  else .next (s.raiseData (x.val + 1))

/-- `FX65` (R165): I is unchanged (D10; log 9). -/
def execLdVxMem (x : Reg) (s : State) : Host.Outcome State Fault Refusal :=
  if s.dataOk (x.val + 1) then .next (s.loadRegs s.addrI (regsUpTo x)).advance
  else .next (s.raiseData (x.val + 1))

end Sys2Proof.Machine
end

