-- ==== Sys2Proof/Machine/Keypad.lean ====
section
/-! DEFINITION. The keypad instructions. Spec: 44_keypad.md. -/

namespace Sys2Proof.Machine

/-- `EX9E` (R175, R178). -/
def execSkp (x : Reg) (s : State) : Host.Outcome State Fault Refusal :=
  match s.keyOf x with
  | some k => .next (s.skipIf (s.keyDown k))
  | none => .next (s.raiseKey x)

/-- `EXA1` (R176, R178). -/
def execSknp (x : Reg) (s : State) : Host.Outcome State Fault Refusal :=
  match s.keyOf x with
  | some k => .next (s.skipIf (!s.keyDown k))
  | none => .next (s.raiseKey x)

/-- `FX0A` (R177): with no key down the step is Blocked: nothing changes and the next Step runs it again (R203). -/
def execLdVxK (x : Reg) (s : State) : Host.Outcome State Fault Refusal :=
  match s.lowestKey with
  | some k => .next (s.writeV x (keyByte k)).advance
  | none => .next s

end Sys2Proof.Machine
end

