-- ==== Sys2Proof/Machine/RegisterAlu.lean ====
section
/-! DEFINITION. Register loads, logic, arithmetic and the random byte. Spec: 42_register_alu.md. -/

namespace Sys2Proof.Machine

/-- `6XNN` (R135). -/
def execLdImm (x : Reg) (nn : Byte) (s : State) : Host.Outcome State Fault Refusal :=
  .next (s.writeV x nn).advance

/-- `7XNN` (R136): modulo 256, no carry out (R133). -/
def execAddImm (x : Reg) (nn : Byte) (s : State) : Host.Outcome State Fault Refusal :=
  .next (s.writeV x (s.readV x + nn)).advance

/-- `8XY0` (R137). -/
def execLdReg (x y : Reg) (s : State) : Host.Outcome State Fault Refusal :=
  .next (s.writeV x (s.readV y)).advance

/-- `8XY1` (R138): VF not written (R133). -/
def execOr (x y : Reg) (s : State) : Host.Outcome State Fault Refusal :=
  .next (s.writeV x (s.readV x ||| s.readV y)).advance

/-- `8XY2` (R139): VF not written (R133). -/
def execAnd (x y : Reg) (s : State) : Host.Outcome State Fault Refusal :=
  .next (s.writeV x (s.readV x &&& s.readV y)).advance

/-- `8XY3` (R140): VF not written (R133). -/
def execXor (x y : Reg) (s : State) : Host.Outcome State Fault Refusal :=
  .next (s.writeV x (s.readV x ^^^ s.readV y)).advance

/-- `8XY4` (R141). -/
def execAddReg (x y : Reg) (s : State) : Host.Outcome State Fault Refusal :=
  .next (s.writeWithFlag x (s.readV x + s.readV y) (carry (s.readV x) (s.readV y))).advance

/-- `8XY5` (R142). -/
def execSub (x y : Reg) (s : State) : Host.Outcome State Fault Refusal :=
  .next (s.writeWithFlag x (s.readV x - s.readV y) (noBorrow (s.readV x) (s.readV y))).advance

/-- `8XY6` (R143): shifts V[x] in place; the Y field is not read (R134, C7). -/
def execShr (x _y : Reg) (s : State) : Host.Outcome State Fault Refusal :=
  .next (s.writeWithFlag x (s.readV x >>> 1) (shiftedOutRight (s.readV x))).advance

/-- `8XY7` (R144). -/
def execSubn (x y : Reg) (s : State) : Host.Outcome State Fault Refusal :=
  .next (s.writeWithFlag x (s.readV y - s.readV x) (noBorrow (s.readV y) (s.readV x))).advance

/-- `8XYE` (R145): shifts V[x] in place; the Y field is not read (R134, C7). -/
def execShl (x _y : Reg) (s : State) : Host.Outcome State Fault Refusal :=
  .next (s.writeWithFlag x (s.readV x <<< 1) (shiftedOutLeft (s.readV x))).advance

/-- `CXNN` (R146): the draw AND the mask; VF not written (R133). -/
def execRnd (x : Reg) (nn : Byte) (s : State) : Host.Outcome State Fault Refusal :=
  .next (s.countDraw.writeV x (s.rndByte &&& nn)).advance

end Sys2Proof.Machine
end

