-- ==== Sys2Proof/Machine/Timers.lean ====
section
/-! DEFINITION. The timer instructions. Spec: 45_timers.md. -/

namespace Sys2Proof.Machine

/-- `FX07` (R185). -/
def execLdVxDt (x : Reg) (s : State) : Host.Outcome State Fault Refusal :=
  .next (s.writeV x s.DT).advance

/-- `FX15` (R186). -/
def execLdDtVx (x : Reg) (s : State) : Host.Outcome State Fault Refusal :=
  .next (s.setDT (s.readV x)).advance

/-- `FX18` (R187). -/
def execLdStVx (x : Reg) (s : State) : Host.Outcome State Fault Refusal :=
  .next (s.setST (s.readV x)).advance

end Sys2Proof.Machine
end

