-- ==== Sys2Proof/Machine/Step.lean ====
section
/-! DEFINITION. One Step transaction (30_encoding.md R89). The checks stand in the order of 60_exceptions.md R199: the run
status, the fetch bound, decode, the instruction's own check. -/

namespace Sys2Proof.Machine

/-- The part of a Step after the fetch: currentOpcode takes the word (R40), then decode and execute. -/
def State.runWord (s : State) (w : Word) : Host.Outcome State Fault Refusal :=
  match decodeWord w with
  | .ok i => exec i (s.setOpcode w)
  | .error _ => .next ((s.setOpcode w).raise .unknownOpcode)

/-- Step (R89). A fault is taken as a next state, halted (log 1); a halted core answers its fault again (R200). -/
def step (s : State) : Host.Outcome State Fault Refusal :=
  match s.runStatus with
  | .halted r => .fault (.halted r)
  | .running =>
    match s.fetchWord with
    | none => .next s.raiseFetch
    | some w => s.runWord w

/-- The state with an instruction's word (numbered as the opcode table numbers it) stored where the next Step fetches: at
PC, big-endian (R61, R62). Where PC leaves no room for a word, PC first goes to 0x200; a halted core is set running. -/
def State.withFetchWord (s : State) (nbits w : Nat) : State :=
  let t := if inBounds s.PC.toNat 2 then s else s.setPC 0x0200#16
  ((t.storeBytes t.PC.toNat (bytesOfWord (BitVec.ofNat 16 (w % 2 ^ nbits)))).setRunStatus .running)

end Sys2Proof.Machine
end

