-- ==== Sys2Proof/Machine/Assembly.lean ====
section
/-! DEFINITION. The assembler spelling of 30_encoding.md R87 as data: a mnemonic and its operands. Names only: the
pattern is normative (D24). -/

namespace Sys2Proof

/-- An operand as R87 writes it. -/
inductive AsmOperand where
  /-- `V0`..`VF` -/
  | reg (x : Reg)
  /-- a byte `nn` -/
  | byte (nn : Byte)
  /-- a 12-bit address `nnn` -/
  | addr (nnn : Word)
  /-- a height `n` -/
  | height (n : Nat)
  /-- `I` -/
  | index
  /-- `[I]` -/
  | atIndex
  /-- `DT` -/
  | dt
  /-- `ST` -/
  | st
  /-- `K` -/
  | key
  /-- `F` -/
  | font
  /-- `B` -/
  | bcd
  deriving DecidableEq, Repr

/-- The mnemonic and operands of an instruction (R87). -/
def Instr.assembly : Instr → String × List AsmOperand
  | .cls => ("CLS", [])
  | .ret => ("RET", [])
  | .jp nnn => ("JP", [.addr nnn])
  | .call nnn => ("CALL", [.addr nnn])
  | .seImm x nn => ("SE", [.reg x, .byte nn])
  | .sneImm x nn => ("SNE", [.reg x, .byte nn])
  | .seReg x y => ("SE", [.reg x, .reg y])
  | .ldImm x nn => ("LD", [.reg x, .byte nn])
  | .addImm x nn => ("ADD", [.reg x, .byte nn])
  | .ldReg x y => ("LD", [.reg x, .reg y])
  | .or x y => ("OR", [.reg x, .reg y])
  | .and x y => ("AND", [.reg x, .reg y])
  | .xor x y => ("XOR", [.reg x, .reg y])
  | .addReg x y => ("ADD", [.reg x, .reg y])
  | .sub x y => ("SUB", [.reg x, .reg y])
  | .shr x y => ("SHR", [.reg x, .reg y])
  | .subn x y => ("SUBN", [.reg x, .reg y])
  | .shl x y => ("SHL", [.reg x, .reg y])
  | .sneReg x y => ("SNE", [.reg x, .reg y])
  | .ldI nnn => ("LD", [.index, .addr nnn])
  | .rnd x nn => ("RND", [.reg x, .byte nn])
  | .drw x y n => ("DRW", [.reg x, .reg y, .height n])
  | .skp x => ("SKP", [.reg x])
  | .sknp x => ("SKNP", [.reg x])
  | .ldVxDt x => ("LD", [.reg x, .dt])
  | .ldVxK x => ("LD", [.reg x, .key])
  | .ldDtVx x => ("LD", [.dt, .reg x])
  | .ldStVx x => ("LD", [.st, .reg x])
  | .addI x => ("ADD", [.index, .reg x])
  | .ldF x => ("LD", [.font, .reg x])
  | .ldB x => ("LD", [.bcd, .reg x])
  | .ldMemVx x => ("LD", [.atIndex, .reg x])
  | .ldVxMem x => ("LD", [.reg x, .atIndex])

end Sys2Proof
end

