-- ==== Sys2Proof/Machine/Transactions.lean ====
section
/-! DEFINITION. The host's side of the block: the transactions and read ports of 10_state.md R44, the step outcome of
60_exceptions.md R203, and schedules of transactions. Every interleaving is a list of transactions (R45, R211; log 5). -/

namespace Sys2Proof.Machine

/-! ## Initialize (70_reset_and_hazards.md R230) -/

/-- The default FONT_GLYPHS as the parameter of Initialize (R7, R22; log 2). -/
def defaultFont : Vector Byte 80 := ⟨fontGlyphs.toArray, by decide⟩

/-- Initialize with a font table: the state of R46 with those 80 bytes at 0x050. It discards all earlier state in every
run status. The model's own draw fields are kept, so that no two draws of a run are linked (log 4). -/
def initCore (font : Vector Byte 80) (s : State) : State :=
  ((State.reset.storeBytes Config.fontBase font.toList).setRndPort s.rndPort).setRndCount s.rndCount

/-! ## LoadProgram (20_memory.md R68) -/

/-- `load_result` (R44). -/
inductive LoadResult where
  | ok
  | romTooLarge
  | romReadFailure
  deriving DecidableEq, Repr

/-- `load_result`'s encoding (R196). -/
def LoadResult.code : LoadResult → BitVec 2
  | .ok => 0
  | .romTooLarge => 1
  | .romReadFailure => 2

/-- LoadProgram (R68): the read failure is checked first, then the size; a failure changes nothing. -/
def loadProgram (bytes : List Byte) (readOk : Bool) (s : State) : State × LoadResult :=
  if !readOk then (s, .romReadFailure)
  else if Config.maxRom < bytes.length then (s, .romTooLarge)
  else (s.storeBytes Config.progBase bytes, .ok)

/-! ## Tick, SetKeypad, ClearRedraw -/

/-- A timer at 0 stays at 0 (R210). -/
def countDown (t : Byte) : Byte := if t = 0x00#8 then t else t - 1#8

/-- Tick (R210): one 1/60 s quantum, in every run status. -/
def tick (s : State) : State := (s.setDT (countDown s.DT)).setST (countDown s.ST)

/-- SetKeypad: `keypad <- keypad_in` (R44). -/
def setKeypad (keys : BitVec 16) (s : State) : State := s.setKeypad keys

/-- ClearRedraw: `redrawRequested <- 0` (R44). -/
def clearRedraw (s : State) : State := s.setRedraw false

/-! ## Step and its outcome (R203) -/

/-- What a Step returns (R203). -/
inductive StepOutcome where
  | completed
  | blocked
  | fault (record : FaultRecord)
  deriving DecidableEq, Repr

/-- `step_status` (R203). -/
def StepOutcome.status : StepOutcome → BitVec 2
  | .completed => 0
  | .blocked => 1
  | .fault _ => 2

/-- `fault_code` (R196): 0 for none. -/
def StepOutcome.faultCode : StepOutcome → BitVec 3
  | .completed => 0
  | .blocked => 0
  | .fault r => r.cause.kind.code

/-- The word just fetched is FX0A and no key is down (R177). -/
def State.blocked (s : State) : Bool :=
  match decodeWord s.currentOpcode with
  | .ok (.ldVxK _) => s.lowestKey.isNone
  | _ => false

/-- The outcome of a Step, read from the state it leaves: a fault if the core is halted, Blocked if the word it ran is
FX0A with no key down (a Step changes neither that word nor the keypad), Completed otherwise. -/
def State.outcome (s : State) : StepOutcome :=
  match s.runStatus with
  | .halted r => .fault r
  | .running => if s.blocked then .blocked else .completed

/-- The state after Step(rnd) (R89): the host drives rnd_byte for this Step alone. -/
def stepWith (rnd : Byte) (s : State) : State :=
  match step (s.setRndPort (some rnd)) with
  | .next t => t.setRndPort s.rndPort
  | .fault _ => s
  | .refused _ => s

/-! ## Read ports (R44): no read changes the state -/

/-- The read ports and the debug selections (R44). -/
inductive ReadPort where
  | fb (x : Fin 64) (y : Fin 32)
  | redraw
  | delayTimer
  | soundTimer
  | soundActive
  | keypadOut
  | currentOpcode
  | halted
  | dbgV (x : Reg)
  | dbgI
  | dbgPC
  | dbgSP
  | dbgStack (j : Fin 16)
  | dbgMemory (a : Fin 4096)
  deriving DecidableEq, Repr

/-- What a read port shows, at the port's width (R44). The debug reads have no port width there: each shows its element
at the element's own width (R20; DESIGN CHOICE, log 16). -/
inductive PortValue where
  /-- 1 bit: fb_rd_data, redraw, sound_active, halted -/
  | bit (v : BitVec 1)
  /-- 8 bits: delay_timer, sound_timer; debug reads of V and memory -/
  | byte (v : Byte)
  /-- 16 bits: keypad_out, current_opcode; debug reads of I, PC and the stack -/
  | word (v : Word)
  /-- an integer 0..16: the debug read of SP (R31) -/
  | depth (v : Fin 17)
  deriving DecidableEq, Repr

/-- `sound_active` (R36): a function of ST. -/
def State.soundActive (s : State) : Bool := s.ST != 0x00#8

/-- `halted` (R44). -/
def State.isHalted (s : State) : Bool :=
  match s.runStatus with
  | .halted _ => true
  | .running => false

/-- The value on a read port (R44). -/
def readPort (s : State) : ReadPort → PortValue
  | .fb x y => .bit (BitVec.ofBool (s.FB x y))
  | .redraw => .bit (BitVec.ofBool s.redrawRequested)
  | .delayTimer => .byte s.DT
  | .soundTimer => .byte s.ST
  | .soundActive => .bit (BitVec.ofBool s.soundActive)
  | .keypadOut => .word s.keypad
  | .currentOpcode => .word s.currentOpcode
  | .halted => .bit (BitVec.ofBool s.isHalted)
  | .dbgV x => .byte (s.readV x)
  | .dbgI => .word s.I
  | .dbgPC => .word s.PC
  | .dbgSP => .depth s.SP
  | .dbgStack j => .word s.stack[j.val]
  | .dbgMemory a => .byte (s.memRead a.val)

/-! ## Transactions and schedules (R44, R45) -/

/-- The host's transactions (R44). -/
inductive Transaction where
  | initCore (font : Vector Byte 80)
  | loadProgram (bytes : List Byte) (readOk : Bool)
  | step (rnd : Byte)
  | tick
  | setKeypad (keys : BitVec 16)
  | clearRedraw
  | read (port : ReadPort)
  deriving DecidableEq, Repr

/-- What a transaction returns on its output ports (R44). -/
inductive Response where
  | nothing
  | loaded (result : LoadResult)
  | stepped (outcome : StepOutcome)
  | value (v : PortValue)
  deriving DecidableEq, Repr

/-- One transaction: one atomic transition of the state (R44, R45). -/
def transact : Transaction → State → State × Response
  | .initCore font, s => (Machine.initCore font s, .nothing)
  | .loadProgram bytes readOk, s =>
    ((Machine.loadProgram bytes readOk s).1, .loaded (Machine.loadProgram bytes readOk s).2)
  | .step rnd, s => (stepWith rnd s, .stepped (stepWith rnd s).outcome)
  | .tick, s => (Machine.tick s, .nothing)
  | .setKeypad keys, s => (Machine.setKeypad keys s, .nothing)
  | .clearRedraw, s => (Machine.clearRedraw s, .nothing)
  | .read port, s => (s, .value (readPort s port))

/-- The state a schedule leaves: the transactions one after another (R45). -/
def schedule : List Transaction → State → State
  | [], s => s
  | tr :: rest, s => schedule rest (transact tr s).1

end Sys2Proof.Machine
end

