-- ==== Sys2Proof/Safety.lean ====
section
/-! DEFINITION. What claims speak of: the invariant every transaction keeps, a step that runs safely, and the three named
end states of 60_exceptions.md R218. -/

namespace Sys2Proof.Machine

/-- A fault record tells the truth about the halted state that holds it (R197, R198): a faulting step changes only
currentOpcode and runStatus, and nothing a record speaks of changes while the core is halted (R200). -/
def FaultRecord.agrees (r : FaultRecord) (s : State) : Prop :=
  r.pc = s.PC ∧
  match r.cause with
  | .outOfBounds .fetch base len => r.opcode = none ∧ base = s.PC.toNat ∧ len = 2 ∧ 0xFFF < s.PC.toNat + 1
  | .outOfBounds .data base len =>
    r.opcode = some s.currentOpcode ∧ base = s.I.toNat ∧ 1 ≤ len ∧ len ≤ 16 ∧ 0xFFF < base + len - 1
  | .outOfBounds .keypad base len => r.opcode = some s.currentOpcode ∧ 0xF < base ∧ base ≤ 0xFF ∧ len = 1
  | .stackOverflow sp => r.opcode = some s.currentOpcode ∧ sp = 16 ∧ s.SP.val = 16
  | .stackUnderflow sp => r.opcode = some s.currentOpcode ∧ sp = 0 ∧ s.SP.val = 0
  | .unknownOpcode =>
    r.opcode = some s.currentOpcode ∧ decodeWord s.currentOpcode = .error (.unknownOpcode s.currentOpcode)

/-- The run status is Running, or Halted with a record that agrees with the state. -/
def State.statusOk (s : State) : Prop :=
  match s.runStatus with
  | .running => True
  | .halted r => r.agrees s

/-- The invariant of the block: memory is in canonical form (so lists no address above 0xFFF); PC is at most 0x1002, "the
largest reachable value" (R30, the spec's inference); every stack slot, in use or stale, is at most 0xFFE; a fault record
agrees with the state. That a slot holds the address of its call is the spec's decision D7 (R32, log 8), that a stale slot
keeps it D28 (R34, log 15); the record and what a fault leaves are D14 and D15 (R197, R198, log 17). -/
structure State.Inv (s : State) : Prop where
  memory : s.memory.wf = true
  pc : s.PC.toNat ≤ 0x1002
  stack : ∀ j : Fin 16, (s.stack[j.val]).toNat ≤ 0xFFE
  status : s.statusOk

/-- The next Step runs to Completed or Blocked: it has a next state in which the core is still running. -/
def State.stepsSafely (s : State) : Prop := ∃ t, step s = .next t ∧ t.runStatus = .running

/-- A schedule runs without a fault from a state: the core is running after every prefix of it. -/
def State.faultFree (s : State) : List Transaction → Prop
  | [] => s.runStatus = .running
  | tr :: rest => s.runStatus = .running ∧ (transact tr s).1.faultFree rest

/-- End state (a) of R218: halted with a record. -/
def State.endHalted (s : State) : Prop := ∃ r, s.runStatus = .halted r

/-- End state (b) of R218: running, and the word at PC is `0x1000 + PC` with PC at most 0xFFE. -/
def State.endSelfJump (s : State) : Prop :=
  s.runStatus = .running ∧ s.PC.toNat ≤ 0xFFE ∧ s.fetchWord = some (0x1000#16 + s.PC)

/-- End state (c) of R218: running, the word at PC is FX0A, and no key is down. -/
def State.endWaiting (s : State) : Prop :=
  s.runStatus = .running ∧ s.keypad = 0#16 ∧ ∃ w x, s.fetchWord = some w ∧ decodeWord w = .ok (.ldVxK x)

end Sys2Proof.Machine
end

