-- ==== Sys2Proof/Certificates/Slice0/Obligations.lean ====
section
/-! DEFINITION. The statements for the provers. The first part names what the statements speak of, in the spec's terms and
apart from the meanings: words written from the opcode map, what a step leaves unchanged, who may write what. -/

namespace Sys2Proof.Claims

open Sys2Proof.Machine

/-! ## Words of the opcode map (30_encoding.md R81, R83), by arithmetic on their digits -/

/-- The word with family digit `f` and low 12 bits `nnn`. -/
def wordOfNNN (f nnn : Nat) : Word := BitVec.ofNat 16 (f * 4096 + nnn)

/-- The word with family digit `f`, X digit `x` and low byte `nn`. -/
def wordOfXNN (f x nn : Nat) : Word := BitVec.ofNat 16 (f * 4096 + x * 256 + nn)

/-- The word with the four digits `f`, `x`, `y`, `n`. -/
def wordOfXYN (f x y n : Nat) : Word := BitVec.ofNat 16 (f * 4096 + x * 256 + y * 16 + n)

/-! ## What a step leaves unchanged -/

/-- Every register but the listed ones. -/
def RegsKept (ws : List Reg) (s t : State) : Prop := ∀ y, y ∉ ws → t.readV y = s.readV y

/-- Every byte of memory. -/
def MemoryKept (s t : State) : Prop := ∀ a, t.memRead a = s.memRead a

/-- Every byte of memory outside `base .. base + n - 1`. -/
def MemoryKeptOutside (base n : Nat) (s t : State) : Prop :=
  ∀ a, a < base ∨ base + n ≤ a → t.memRead a = s.memRead a

/-- The index register. -/
def IndexKept (s t : State) : Prop := t.I = s.I

/-- SP and every stack slot, in use or not. -/
def StackKept (s t : State) : Prop := t.SP = s.SP ∧ ∀ j : Fin 16, t.stack[j.val] = s.stack[j.val]

/-- Both timers. -/
def TimersKept (s t : State) : Prop := t.DT = s.DT ∧ t.ST = s.ST

/-- Every cell and the redraw flag. -/
def DisplayKept (s t : State) : Prop := (∀ x y, t.FB x y = s.FB x y) ∧ t.redrawRequested = s.redrawRequested

/-- The keypad latch and the random port. -/
def InputsKept (s t : State) : Prop := t.keypad = s.keypad ∧ t.rndPort = s.rndPort

/-- The opcode latch and the run status. -/
def StatusKept (s t : State) : Prop := t.currentOpcode = s.currentOpcode ∧ t.runStatus = s.runStatus

/-- The count of draws. -/
def DrawsKept (s t : State) : Prop := t.rndCount = s.rndCount

/-- Everything but PC and the listed registers. -/
def OnlyRegsAndPc (ws : List Reg) (s t : State) : Prop :=
  RegsKept ws s t ∧ MemoryKept s t ∧ IndexKept s t ∧ StackKept s t ∧ TimersKept s t ∧ DisplayKept s t ∧
  InputsKept s t ∧ StatusKept s t ∧ DrawsKept s t

/-- Everything but PC and I. -/
def OnlyIndexAndPc (s t : State) : Prop :=
  RegsKept [] s t ∧ MemoryKept s t ∧ StackKept s t ∧ TimersKept s t ∧ DisplayKept s t ∧ InputsKept s t ∧
  StatusKept s t ∧ DrawsKept s t

/-- Everything but PC and the bytes `base .. base + n - 1`. -/
def OnlyBytesAndPc (base n : Nat) (s t : State) : Prop :=
  RegsKept [] s t ∧ MemoryKeptOutside base n s t ∧ IndexKept s t ∧ StackKept s t ∧ TimersKept s t ∧
  DisplayKept s t ∧ InputsKept s t ∧ StatusKept s t ∧ DrawsKept s t

/-- Everything but PC, the display with its redraw flag, and the listed registers. -/
def OnlyDisplayRegsAndPc (ws : List Reg) (s t : State) : Prop :=
  RegsKept ws s t ∧ MemoryKept s t ∧ IndexKept s t ∧ StackKept s t ∧ TimersKept s t ∧ InputsKept s t ∧
  StatusKept s t ∧ DrawsKept s t

/-- Everything but PC, SP and the slots the listed predicate names. -/
def OnlyStackAndPc (written : Fin 16 → Prop) (s t : State) : Prop :=
  RegsKept [] s t ∧ MemoryKept s t ∧ IndexKept s t ∧ TimersKept s t ∧ DisplayKept s t ∧ InputsKept s t ∧
  StatusKept s t ∧ DrawsKept s t ∧ ∀ j : Fin 16, ¬ written j → t.stack[j.val] = s.stack[j.val]

/-- PC moved on by `n` modulo 65536 (10_state.md R29). -/
def PcPlus (n : Nat) (s t : State) : Prop := t.PC.toNat = (s.PC.toNat + n) % 65536

/-- The fault `c` was taken after the fetch: nothing but runStatus changed, and the record holds the cause, PC and the
fetched word (60_exceptions.md R197, R198; the record's fields and the halt are the spec's decisions D14 and D15). -/
def TakesFault (c : FaultCause) (s t : State) : Prop :=
  t = { s with runStatus := .halted { cause := c, pc := s.PC, opcode := some s.currentOpcode } }

/-! ## Sprites (40_display.md R102) -/

/-- Some sprite bit of 1 has the cell `(cx, cy)` as its target `((x + col) mod 64, (y + row) mod 32)`. -/
def Targets (s : State) (x y : Reg) (n : Nat) (cx : Fin 64) (cy : Fin 32) : Prop :=
  ∃ row col, row < n ∧ col < 8 ∧ cx.val = ((s.readV x).toNat + col) % 64 ∧ cy.val = ((s.readV y).toNat + row) % 32 ∧
    (s.memRead (s.I.toNat + row)).getLsbD (7 - col) = true

/-! ## Which instruction a step executes, and who may write what -/

/-- The word at PC is in bounds and decodes to `i`. -/
def Executes (s : State) (i : Instr) : Prop := ∃ w, s.fetchWord = some w ∧ decodeWord w = .ok i

/-- The registers an instruction names as ordinary destinations (10_state.md R26). -/
def destinations : Instr → List Reg
  | .ldImm x _ => [x]
  | .addImm x _ => [x]
  | .ldReg x _ => [x]
  | .or x _ => [x]
  | .and x _ => [x]
  | .xor x _ => [x]
  | .addReg x _ => [x]
  | .sub x _ => [x]
  | .shr x _ => [x]
  | .subn x _ => [x]
  | .shl x _ => [x]
  | .rnd x _ => [x]
  | .ldVxDt x => [x]
  | .ldVxK x => [x]
  | .ldVxMem x => (List.finRange 16).filter (fun k => decide (k ≤ x))
  | _ => []

/-- The instructions that write VF as a flag, and the value they write (10_state.md R42). -/
def FlagValue (s : State) : Instr → Option Bool
  | .addReg x y => some (decide (255 < (s.readV x).toNat + (s.readV y).toNat))
  | .sub x y => some (decide ((s.readV y).toNat ≤ (s.readV x).toNat))
  | .shr x _ => some ((s.readV x).getLsbD 0)
  | .subn x y => some (decide ((s.readV x).toNat ≤ (s.readV y).toNat))
  | .shl x _ => some ((s.readV x).getLsbD 7)
  | _ => none

/-- How many bytes of memory an instruction reads or writes from I on (20_memory.md R64). -/
def dataBytes : Instr → Nat
  | .drw _ _ n => n
  | .ldB _ => 3
  | .ldMemVx x => x.val + 1
  | .ldVxMem x => x.val + 1
  | _ => 0

/-- The condition of each fault cause (60_exceptions.md R195), with the info its record holds. -/
def CauseHolds (s : State) : FaultCause → Prop
  | .outOfBounds .fetch base len => 0xFFF < s.PC.toNat + 1 ∧ base = s.PC.toNat ∧ len = 2
  | .outOfBounds .data base len =>
    ∃ i, Executes s i ∧ base = s.I.toNat ∧ len = dataBytes i ∧ 0 < len ∧ 0xFFF < base + len - 1
  | .outOfBounds .keypad base len =>
    ∃ x, (Executes s (.skp x) ∨ Executes s (.sknp x)) ∧ base = (s.readV x).toNat ∧ 0xF < base ∧ len = 1
  | .stackOverflow sp => (∃ nnn, Executes s (.call nnn)) ∧ s.SP.val = 16 ∧ sp = 16
  | .stackUnderflow sp => Executes s .ret ∧ s.SP.val = 0 ∧ sp = 0
  | .unknownOpcode => ∃ w, s.fetchWord = some w ∧ decodeWord w = .error (.unknownOpcode w)

/-- The new PC of an instruction that completes or is blocked (10_state.md R29). -/
def NextPc (s t : State) : Instr → Prop
  | .jp nnn => t.PC = nnn
  | .call nnn => t.PC = nnn
  | .ret => ∃ j : Fin 16, j.val + 1 = s.SP.val ∧ t.PC.toNat = ((s.stack[j.val]).toNat + 2) % 65536
  | .seImm x nn => if s.readV x = nn then PcPlus 4 s t else PcPlus 2 s t
  | .sneImm x nn => if s.readV x ≠ nn then PcPlus 4 s t else PcPlus 2 s t
  | .seReg x y => if s.readV x = s.readV y then PcPlus 4 s t else PcPlus 2 s t
  | .sneReg x y => if s.readV x ≠ s.readV y then PcPlus 4 s t else PcPlus 2 s t
  | .skp x => if s.keypad.getLsbD (s.readV x).toNat = true then PcPlus 4 s t else PcPlus 2 s t
  | .sknp x => if s.keypad.getLsbD (s.readV x).toNat = false then PcPlus 4 s t else PcPlus 2 s t
  | .ldVxK _ => if s.keypad = 0#16 then t.PC = s.PC else PcPlus 2 s t
  | _ => PcPlus 2 s t

/-- The words of 30_encoding.md R85's table. -/
def UnknownWord (w : Nat) : Prop :=
  (w < 0x1000 ∧ w ≠ 0x00E0 ∧ w ≠ 0x00EE) ∨
  (w / 4096 = 0x5 ∧ w % 16 ≠ 0) ∨
  (w / 4096 = 0x8 ∧ w % 16 ∈ [0x8, 0x9, 0xA, 0xB, 0xC, 0xD, 0xF]) ∨
  (w / 4096 = 0x9 ∧ w % 16 ≠ 0) ∨
  (w / 4096 = 0xB) ∨
  (w / 4096 = 0xE ∧ w % 256 ∉ [0x9E, 0xA1]) ∨
  (w / 4096 = 0xF ∧ w % 256 ∉ [0x07, 0x0A, 0x15, 0x18, 0x1E, 0x29, 0x33, 0x55, 0x65])

/-- Is the transaction an Initialize? -/
def isInit : Transaction → Bool
  | .initCore _ => true
  | _ => false

/-- The parts of the state that nothing changes while the core is halted (60_exceptions.md R200). -/
def FrozenAlike (s t : State) : Prop :=
  t.V = s.V ∧ t.I = s.I ∧ t.PC = s.PC ∧ t.stack = s.stack ∧ t.SP = s.SP ∧ t.display = s.display ∧
  t.currentOpcode = s.currentOpcode ∧ t.runStatus = s.runStatus ∧ t.rndCount = s.rndCount

end Sys2Proof.Claims

open Sys2Proof Sys2Proof.Machine Sys2Proof.Claims

/-! ## Encoding -/

/-- Decoding an encoded well-formed instruction gives it back, with every operand at every value its field admits, from
the word and from its bytes (R81, R83, R84). -/
def Obligations.DecodeOfEncodeIsTheInstruction : Prop :=
  ∀ (i : Instr) (rest : List Byte), i.wf = true →
    decodeWord (encode i) = .ok i ∧ decode (encodeBytes i ++ rest) = .ok (i, rest)

/-- Each word has one meaning: what a word decodes to is well-formed and encodes to that word and no other (R83, R88).
-/
def Obligations.EncodeOfDecodeIsTheWord : Prop :=
  ∀ (w : Word) (i : Instr), decodeWord w = .ok i → i.wf = true ∧ encode i = w

/-- R83: the instruction set is the 33 patterns and only those; a word matches a pattern by its match and mask. That no
two patterns match the same word is the spec's own inference, "[derived: from the match and mask columns]". It rests on
the spec's decision D12 (BNNN and 0NNN are no instructions, log 11). -/
def Obligations.InstructionsAreTheThirtyThreePatterns : Prop :=
  opcodeTable.length = 33 ∧
  (∀ w : Word, (∃ i, decodeWord w = .ok i) ↔ ∃ r ∈ opcodeTable, w &&& r.mask = r.pattern) ∧
  (∀ (w : Word) (i : Instr), decodeWord w = .ok i → i.row ∈ opcodeTable ∧ w &&& i.row.mask = i.row.pattern) ∧
  (∀ (w : Word) (r r' : OpcodeRow), r ∈ opcodeTable → r' ∈ opcodeTable → w &&& r.mask = r.pattern →
    w &&& r'.mask = r'.pattern → r = r')

/-- The words R85 lists, and no others, are rejected as UnknownOpcode (R85's counts, which the spec derives, are left
out). It rests on the spec's decision D12 (BNNN and 0NNN are no instructions, log 11). -/
def Obligations.ListedWordsAreUnknownOpcodes : Prop :=
  ∀ w : Word, decodeWord w = .error (.unknownOpcode w) ↔ UnknownWord w.toNat

/-- Words the spec writes out (95_test_vectors.md: operand assembly and the unknown words X2, X7, X9 of 2.8, J8 and J11
of 2.2, M16 of 2.4, K1 of 2.5) decode as it says; that B123 is unknown is the spec's decision D12 (log 11). -/
def Obligations.WrittenOutWordsDecode : Prop :=
  decodeWord 0xD232#16 = .ok (.drw 2 3 2) ∧ decodeWord 0xA2F0#16 = .ok (.ldI 0x2F0#16) ∧
  decodeWord 0x7C80#16 = .ok (.addImm 12 0x80#8) ∧ decodeWord 0x8AB5#16 = .ok (.sub 10 11) ∧
  decodeWord 0x00EE#16 = .ok .ret ∧ decodeWord 0x3342#16 = .ok (.seImm 3 0x42#8) ∧
  decodeWord 0xE59E#16 = .ok (.skp 5) ∧ decodeWord 0xF155#16 = .ok (.ldMemVx 1) ∧
  decodeWord 0x01E0#16 = .error (.unknownOpcode 0x01E0#16) ∧
  decodeWord 0xB123#16 = .error (.unknownOpcode 0xB123#16) ∧
  decodeWord 0x8128#16 = .error (.unknownOpcode 0x8128#16)

/-- R88: every mnemonic with its operands stands for exactly one word (the mnemonics are the spec's decision D24). -/
def Obligations.OneWordForEachAssemblyLine : Prop :=
  ∀ i j : Instr, i.assembly = j.assembly → encode i = encode j

/-! ## The step -/

/-- R62: the byte at PC is bits 15..8 of the opcode and the byte at PC + 1 bits 7..0; a step of a running core runs the
instruction those bits decode to, with currentOpcode holding the word (also in a step that then faults or is blocked:
R40, decision D14). That an odd PC is fetched like an even one is the spec's decision D16 (R63, log 12). -/
def Obligations.StepRunsTheDecodedInstruction : Prop :=
  ∀ (s : State) (w : Word) (i : Instr), s.runStatus = .running → s.PC.toNat + 1 ≤ 0xFFF →
    w.toNat = (s.memRead s.PC.toNat).toNat * 256 + (s.memRead (s.PC.toNat + 1)).toNat → decodeWord w = .ok i →
    step s = exec i { s with currentOpcode := w }

/-- A fetch past 0xFFF (R61) and a word that is no instruction (R85, for BNNN and 0NNN decision D12) halt the core. The
halt and the record are the spec's decisions D14, D15, an odd PC is D16; that the step then has a next state is the
model's (log 1). -/
def Obligations.FailedFetchAndDecodeHalt : Prop :=
  (∀ s : State, s.runStatus = .running → 0xFFF < s.PC.toNat + 1 →
    step s = .next { s with
      runStatus := .halted { cause := .outOfBounds .fetch s.PC.toNat 2, pc := s.PC, opcode := none } }) ∧
  (∀ (s : State) (w : Word), s.runStatus = .running → s.PC.toNat + 1 ≤ 0xFFF →
    w.toNat = (s.memRead s.PC.toNat).toNat * 256 + (s.memRead (s.PC.toNat + 1)).toNat →
    UnknownWord w.toNat →
    step s = .next { s with
      currentOpcode := w, runStatus := .halted { cause := .unknownOpcode, pc := s.PC, opcode := some w } })

/-- A step that faults changes only currentOpcode, when the fetch succeeded, and runStatus; the record holds PC and the
fetched word (R198; the spec's decision D14). It also rests on the spec's decision D15 (the fault record, log 17). -/
def Obligations.FaultingStepIsPrecise : Prop :=
  ∀ (s t : State) (r : FaultRecord), step s = .next t → t.runStatus = .halted r →
    t = { s with currentOpcode := s.fetchWord.getD s.currentOpcode, runStatus := .halted r } ∧
    r.pc = s.PC ∧ r.opcode = s.fetchWord

/-- The core raises exactly the four faults, each exactly under its condition, with the info of its record (R195, R197,
R199; the keypad case is the spec's decision D9, the record D15). It also rests on the spec's decisions D12 (BNNN and
0NNN are no instructions, log 11), D14 (checks before writes, a fault halts, currentOpcode latched by every fetch, log
17), D16 (odd addresses, no wrap in bounds, log 12). -/
def Obligations.FaultsAreExactlyTheListedCauses : Prop :=
  ∀ (s t : State) (c : FaultCause), step s = .next t →
    ((∃ r, t.runStatus = .halted r ∧ r.cause = c) ↔ CauseHolds s c)

/-- Every successful fetch latches its word in currentOpcode, also in a step that then faults or is blocked; a failed
fetch leaves it; no instruction reads it (R40, the spec's decision D14). It also rests on the spec's decision D16 (odd
addresses, no wrap in bounds, log 12). -/
def Obligations.FetchLatchesTheOpcode : Prop :=
  (∀ (s t : State) (w : Word), step s = .next t → s.fetchWord = some w → t.currentOpcode = w) ∧
  (∀ s t : State, step s = .next t → s.fetchWord = none → t.currentOpcode = s.currentOpcode) ∧
  (∀ (s : State) (w v : Word), s.fetchWord = some w → step { s with currentOpcode := v } = step s)

/-- The outcome of a Step (R203, decisions D14, D27): Blocked exactly for FX0A with no key down, and then only
currentOpcode is written; Fault exactly when the step halts the core; Completed otherwise. It also rests on the spec's
decisions D2 (the transactions and ports, log 16), D16 (odd addresses, no wrap in bounds, log 12). -/
def Obligations.StepOutcomesAreExact : Prop :=
  ∀ (s : State) (rnd : Byte), s.runStatus = .running →
    ((transact (.step rnd) s).2 = .stepped .blocked ↔ (∃ x, Executes s (.ldVxK x)) ∧ s.keypad = 0#16) ∧
    (∀ r, (transact (.step rnd) s).2 = .stepped (.fault r) ↔ (transact (.step rnd) s).1.runStatus = .halted r) ∧
    ((transact (.step rnd) s).2 = .stepped .blocked →
      (transact (.step rnd) s).1 = { s with currentOpcode := s.fetchWord.getD s.currentOpcode })

/-- After a step that completes or is blocked, PC is what R29's table says (return: decision D7; odd values: D16). It
also rests on the spec's decision D27 (Blocked, and a key is pressed when its bit is 1, log 18). -/
def Obligations.CompletedStepsMovePcByTheTable : Prop :=
  ∀ (i : Instr) (s t : State), exec i s = .next t → s.runStatus = .running → t.runStatus = .running → NextPc s t i

/-- `rnd` is read only by CXNN (R89): any other step is the same for every random byte; a CXNN step gives the byte AND
NN, whatever the byte, and leaves every other register and PC + 2 as for any other byte (R146, D13). It also rests on
the spec's decisions D2 (the transactions and ports, log 16), D11 (no VF write, log 10), D14 (checks before writes, a
fault halts, currentOpcode latched by every fetch, log 17), D16 (odd addresses, no wrap in bounds, log 12). -/
def Obligations.RandomByteIsReadOnlyByRnd : Prop :=
  (∀ (s : State) (r r' : Byte), (∀ x nn, ¬ Executes s (.rnd x nn)) → transact (.step r) s = transact (.step r') s) ∧
  (∀ (s : State) (r : Byte) (x : Reg) (nn : Byte), s.runStatus = .running → Executes s (.rnd x nn) →
    (transact (.step r) s).1.readV x = r &&& nn ∧ RegsKept [x] s (transact (.step r) s).1 ∧
    PcPlus 2 s (transact (.step r) s).1)

/-! ## Invariants -/

/-- The state after Initialize meets the invariant (its PC is the spec's decision D4, log 6, its run status D14). -/
def Obligations.ResetMeetsTheInvariant : Prop := State.Inv State.reset

/-- Every step keeps the invariant: memory in canonical form, PC at most 0x1002 (R30, the spec's inference), stack slots
at most 0xFFE, a fault record that agrees with the state (R197, R198). The bound on slots, stale ones included, rests on
the spec's decisions D7 and D28 (logs 8, 15), the record on D14 and D15 (log 17), the PC bound on D7 too (a return adds
2 to a slot). It also rests on the spec's decision D16 (odd addresses, no wrap in bounds, log 12). -/
def Obligations.StepKeepsTheInvariant : Prop :=
  ∀ s t : State, s.Inv → step s = .next t → t.Inv

/-- Every transaction of the host keeps the invariant, so every schedule of them does (R44, R45; the transactions are
the spec's decision D2). The bound on slots, stale ones included, rests on decisions D7 and D28 (logs 8, 15), the fault
record on D14 and D15 (log 17), that only Initialize clears a halt on D31 (log 20). It also rests on the spec's decision
D4 (PC = 0x200, log 6). -/
def Obligations.TransactionsKeepTheInvariant : Prop :=
  ∀ (tr : Transaction) (trs : List Transaction) (s : State), s.Inv →
    (transact tr s).1.Inv ∧ (schedule trs s).Inv

/-! ## Whole-machine rules: who may write what -/

/-- A register changes only in an instruction that names it as a destination, or VF in a flag writer or a draw (R26).
R26 is the spec's own inference from its instruction rules. It rests on the spec's decisions D8 (operands read first, VF
written last, log 7), D11 (no VF write, log 10), D14 (checks before writes, a fault halts, currentOpcode latched by
every fetch, log 17), D27 (Blocked, and a key is pressed when its bit is 1, log 18). -/
def Obligations.RegistersChangeOnlyAsDestinations : Prop :=
  ∀ (i : Instr) (s t : State) (y : Reg), exec i s = .next t → t.readV y ≠ s.readV y →
    y ∈ destinations i ∨ (y = VF ∧ ((FlagValue s i).isSome = true ∨ ∃ a b n, i = .drw a b n))

/-- R42: VF is written as a flag by 8XY4, 8XY5, 8XY6, 8XY7, 8XYE and DXYN with exactly these values, and by no other
instruction except as an ordinary destination. (That the flag wins when X = F is the spec's decision D8.) It also rests
on the spec's decisions D11 (no VF write, log 10), D29 (N = 0, log 18). -/
def Obligations.FlagIsWrittenExactlyAsListed : Prop :=
  ∀ (i : Instr) (s t : State), i.wf = true → exec i s = .next t → s.runStatus = .running → t.runStatus = .running →
    (∀ b, FlagValue s i = some b → t.readV VF = if b then 1#8 else 0#8) ∧
    (∀ x y n, i = .drw x y n →
      ((∃ cx cy, Targets s x y n cx cy ∧ s.FB cx cy = true) → t.readV VF = 1#8) ∧
      ((¬ ∃ cx cy, Targets s x y n cx cy ∧ s.FB cx cy = true) → t.readV VF = 0#8)) ∧
    (FlagValue s i = none → (∀ x y n, i ≠ .drw x y n) → VF ∉ destinations i → t.readV VF = s.readV VF)

/-- I is written by ANNN, FX1E and FX29 alone, with these values; FX55 and FX65 leave it (R27, decision D10). It also
rests on the spec's decisions D14 (checks before writes, a fault halts, currentOpcode latched by every fetch, log 17),
D30 (all 8 bits of V[X], log 13). -/
def Obligations.IndexChangesOnlyByItsWriters : Prop :=
  ∀ (i : Instr) (s t : State), exec i s = .next t →
    match i with
    | .ldI nnn => t.I = nnn
    | .addI x => t.I.toNat = (s.I.toNat + (s.readV x).toNat) % 65536
    | .ldF x => t.I.toNat = 0x050 + 5 * (s.readV x).toNat
    | _ => t.I = s.I

/-- A byte of memory changes only in FX33 at I .. I + 2 and in FX55 at I .. I + X (R60, R64, R66). It rests on the
spec's decisions D14 (checks before writes, a fault halts, currentOpcode latched by every fetch, log 17), D16 (odd
addresses, no wrap in bounds, log 12). -/
def Obligations.MemoryChangesOnlyByStores : Prop :=
  ∀ (i : Instr) (s t : State) (a : Nat), exec i s = .next t → t.memRead a ≠ s.memRead a →
    (∃ x, i = .ldB x ∧ s.I.toNat ≤ a ∧ a ≤ s.I.toNat + 2 ∧ a ≤ 0xFFF) ∨
    (∃ x, i = .ldMemVx x ∧ s.I.toNat ≤ a ∧ a ≤ s.I.toNat + x.val ∧ a ≤ 0xFFF)

/-- Only 00E0 and DXYN change a cell; both set redrawRequested whenever they complete, and no instruction clears it
(R37, R38, decision D21). It also rests on the spec's decisions D14 (checks before writes, a fault halts, currentOpcode
latched by every fetch, log 17), D29 (N = 0, log 18). -/
def Obligations.DisplayChangesOnlyByItsInstructions : Prop :=
  ∀ (i : Instr) (s t : State), exec i s = .next t →
    ((i ≠ .cls ∧ ∀ x y n, i ≠ .drw x y n) → DisplayKept s t) ∧
    ((i = .cls ∨ ∃ x y n, i = .drw x y n) → s.runStatus = .running → t.runStatus = .running →
      t.redrawRequested = true) ∧
    (s.redrawRequested = true → t.redrawRequested = true)

/-- R35: FX15 writes DT, FX18 writes ST, FX07 reads DT, no instruction reads ST, and Tick decrements both toward zero
(R210, decision D19). It also rests on the spec's decisions D2 (the transactions and ports, log 16), D14 (checks before
writes, a fault halts, currentOpcode latched by every fetch, log 17). -/
def Obligations.TimersAreReadAndWrittenAsListed : Prop :=
  (∀ (i : Instr) (s t : State), exec i s = .next t →
    (t.DT = match i with | .ldDtVx x => s.readV x | _ => s.DT) ∧
    (t.ST = match i with | .ldStVx x => s.readV x | _ => s.ST)) ∧
  (∀ (x : Reg) (s : State), ∃ t, exec (.ldVxDt x) s = .next t ∧ t.readV x = s.DT) ∧
  (∀ (i : Instr) (s t : State) (v : Byte), exec i s = .next t →
    exec i { s with ST := v } = .next { t with ST := match i with | .ldStVx x => s.readV x | _ => v }) ∧
  (∀ s : State, (transact .tick s).1.DT.toNat = s.DT.toNat - 1 ∧ (transact .tick s).1.ST.toNat = s.ST.toNat - 1)

/-- No instruction writes the keypad (R39) or the host's random port; SP and the stack change in 2NNN and 00EE alone
(R31 to R34, decisions D7, D28). It also rests on the spec's decision D14 (checks before writes, a fault halts,
currentOpcode latched by every fetch, log 17). -/
def Obligations.KeypadAndStackChangeOnlyByTheirWriters : Prop :=
  ∀ (i : Instr) (s t : State), exec i s = .next t →
    InputsKept s t ∧ ((i ≠ .ret ∧ ∀ nnn, i ≠ .call nnn) → StackKept s t) ∧
    (i = .ret → ∀ j : Fin 16, t.stack[j.val] = s.stack[j.val])

/-! ## Display instructions -/

/-- R100: 00E0 clears every cell and requests a redraw; VF and everything else is unchanged. That it requests a redraw
also on a display already clear is the spec's decision D21 (R38, log 18). -/
def Obligations.ClsClearsEveryCell : Prop :=
  decodeWord 0x00E0#16 = .ok .cls ∧
  ∀ s : State, ∃ t, exec .cls s = .next t ∧ (∀ x y, t.FB x y = false) ∧ t.redrawRequested = true ∧ PcPlus 2 s t ∧
    OnlyDisplayRegsAndPc [] s t

/-- DXYN inverts exactly the cells its sprite bits of 1 target, wrapping both axes, sets VF to 1 when one of them was
lit and to 0 otherwise, and requests a redraw (R101 to R103; the order of VF is decision D8, N = 0 is decision D29).
That a start coordinate past the edge wraps too is the spec's inference (R102, "[derived: from the formula of this
rule]"). It also rests on the spec's decisions D17 (0x000 to 0x1FF like any memory, log 12), D21 (redraw also when no
cell changes, log 18). -/
def Obligations.DrwInvertsTheTargetedCells : Prop :=
  ∀ (x y : Reg) (n : Nat) (s : State), n < 16 → (n = 0 ∨ s.I.toNat + n - 1 ≤ 0xFFF) →
    decodeWord (wordOfXYN 0xD x.val y.val n) = .ok (.drw x y n) ∧
    ∃ t, exec (.drw x y n) s = .next t ∧
      (∀ cx cy, Targets s x y n cx cy → t.FB cx cy = !s.FB cx cy) ∧
      (∀ cx cy, ¬ Targets s x y n cx cy → t.FB cx cy = s.FB cx cy) ∧
      ((∃ cx cy, Targets s x y n cx cy ∧ s.FB cx cy = true) → t.readV VF = 1#8) ∧
      ((¬ ∃ cx cy, Targets s x y n cx cy ∧ s.FB cx cy = true) → t.readV VF = 0#8) ∧
      t.redrawRequested = true ∧ PcPlus 2 s t ∧ OnlyDisplayRegsAndPc [VF] s t

/-- Drawing the same sprite twice at the same place restores every cell (R104); the place is the same when the first
draw's flag does not change V[X] or V[Y], as when neither X nor Y is F. The second draw reports a collision exactly when
the first draw lit a cell: R104's shorter sentence ("if the sprite has any bit of 1") holds on a clear display (log 14).
R104 marks the sentence as the spec's own inference. It rests on the spec's decisions D8 (operands read first, VF
written last, log 7), D29 (N = 0, log 18). -/
def Obligations.DrawingTwiceRestoresTheDisplay : Prop :=
  ∀ (x y : Reg) (n : Nat) (s t u : State), n < 16 → (n = 0 ∨ s.I.toNat + n - 1 ≤ 0xFFF) →
    exec (.drw x y n) s = .next t → t.readV x = s.readV x → t.readV y = s.readV y →
    exec (.drw x y n) t = .next u →
    (∀ cx cy, u.FB cx cy = s.FB cx cy) ∧
    (u.readV VF = 1#8 ↔ ∃ cx cy, Targets s x y n cx cy ∧ s.FB cx cy = false)

/-! ## Control flow -/

/-- R116: 1NNN sets PC to NNN and changes nothing else; a jump to its own address changes nothing; after a target of
0xFFF, and no other, the next fetch is out of bounds. That an odd target is legal, and fetched from, is the spec's
decision D16 (R63, log 12). -/
def Obligations.JpSetsPc : Prop :=
  ∀ (nnn : Word) (s : State), nnn.toNat < 4096 →
    decodeWord (wordOfNNN 0x1 nnn.toNat) = .ok (.jp nnn) ∧
    ∃ t, exec (.jp nnn) s = .next t ∧ t.PC = nnn ∧ OnlyRegsAndPc [] s t ∧ (nnn = s.PC → t = s) ∧
      (t.fetchWord = none ↔ nnn = 0xFFF#16)

/-- 2NNN below 16 entries pushes its own address, adds 1 to SP and sets PC to NNN (R117, R32, decision D7). It also
rests on the spec's decision D16 (odd addresses, no wrap in bounds, log 12). -/
def Obligations.CallPushesItsAddress : Prop :=
  ∀ (nnn : Word) (s : State), nnn.toNat < 4096 →
    decodeWord (wordOfNNN 0x2 nnn.toNat) = .ok (.call nnn) ∧
    (s.SP.val < 16 → ∃ t, exec (.call nnn) s = .next t ∧ t.PC = nnn ∧ t.SP.val = s.SP.val + 1 ∧
      (∀ j : Fin 16, j.val = s.SP.val → t.stack[j.val] = s.PC) ∧
      OnlyStackAndPc (fun j => j.val = s.SP.val) s t)

/-- 00EE on a stack in use takes 1 from SP and sets PC to the popped address plus 2; no slot changes (R115, R33, R34,
decisions D7, D28). -/
def Obligations.RetResumesAfterTheCall : Prop :=
  decodeWord 0x00EE#16 = .ok .ret ∧
  ∀ (s : State) (j : Fin 16), j.val + 1 = s.SP.val →
    ∃ t, exec .ret s = .next t ∧ t.PC.toNat = ((s.stack[j.val]).toNat + 2) % 65536 ∧ t.SP.val = j.val ∧
      OnlyStackAndPc (fun _ => False) s t

/-- A call with 16 entries in use and a return with none take StackOverflow and StackUnderflow, before any write (R32,
R33; the halt and the record are decisions D14, D15). -/
def Obligations.StackBoundsFault : Prop :=
  (∀ (nnn : Word) (s : State), s.SP.val = 16 →
    ∃ t, exec (.call nnn) s = .next t ∧ TakesFault (.stackOverflow 16) s t) ∧
  (∀ s : State, s.SP.val = 0 → ∃ t, exec .ret s = .next t ∧ TakesFault (.stackUnderflow 0) s t)

/-- R124: a call at `a` to `nnn` with a 00EE at `nnn`: two steps leave PC = a + 2, SP as before, and `a` in the slot
(what a call pushes and a return adds is decision D7, that the slot keeps `a` D28, an odd `a` or `nnn` D16). R124 marks
its last sentence as the spec's own inference. -/
def Obligations.CallThenReturnResumesAfterTheCall : Prop :=
  ∀ (s : State) (nnn : Word) (j : Fin 16), s.runStatus = .running → Executes s (.call nnn) → j.val = s.SP.val →
    nnn.toNat ≤ 0xFFE → s.memRead nnn.toNat = 0x00#8 → s.memRead (nnn.toNat + 1) = 0xEE#8 →
    ∃ t u, step s = .next t ∧ step t = .next u ∧ t.PC = nnn ∧ PcPlus 2 s u ∧ u.SP = s.SP ∧ u.stack[j.val] = s.PC ∧
      u.runStatus = .running

/-- R118 to R121: the four register skips move PC by 4 when their condition holds and by 2 when it does not, and change
nothing else; 5XYn and 9XYn with n other than 0 are no instruction. -/
def Obligations.RegisterSkipsCompare : Prop :=
  (∀ (x : Reg) (nn : Byte) (s : State),
    decodeWord (wordOfXNN 0x3 x.val nn.toNat) = .ok (.seImm x nn) ∧
    decodeWord (wordOfXNN 0x4 x.val nn.toNat) = .ok (.sneImm x nn) ∧
    (∃ t, exec (.seImm x nn) s = .next t ∧ (s.readV x = nn → PcPlus 4 s t) ∧ (s.readV x ≠ nn → PcPlus 2 s t) ∧
      OnlyRegsAndPc [] s t) ∧
    (∃ t, exec (.sneImm x nn) s = .next t ∧ (s.readV x ≠ nn → PcPlus 4 s t) ∧ (s.readV x = nn → PcPlus 2 s t) ∧
      OnlyRegsAndPc [] s t)) ∧
  (∀ (x y : Reg) (s : State),
    decodeWord (wordOfXYN 0x5 x.val y.val 0) = .ok (.seReg x y) ∧
    decodeWord (wordOfXYN 0x9 x.val y.val 0) = .ok (.sneReg x y) ∧
    (∀ n, 0 < n → n < 16 →
      decodeWord (wordOfXYN 0x5 x.val y.val n) = .error (.unknownOpcode (wordOfXYN 0x5 x.val y.val n)) ∧
      decodeWord (wordOfXYN 0x9 x.val y.val n) = .error (.unknownOpcode (wordOfXYN 0x9 x.val y.val n))) ∧
    (∃ t, exec (.seReg x y) s = .next t ∧ (s.readV x = s.readV y → PcPlus 4 s t) ∧
      (s.readV x ≠ s.readV y → PcPlus 2 s t) ∧ OnlyRegsAndPc [] s t) ∧
    (∃ t, exec (.sneReg x y) s = .next t ∧ (s.readV x ≠ s.readV y → PcPlus 4 s t) ∧
      (s.readV x = s.readV y → PcPlus 2 s t) ∧ OnlyRegsAndPc [] s t))

/-! ## Register loads, logic and arithmetic -/

/-- R135, R137: 6XNN and 8XY0 write their register and nothing else; X = F is an ordinary destination. -/
def Obligations.LoadsWriteTheRegister : Prop :=
  (∀ (x : Reg) (nn : Byte) (s : State),
    decodeWord (wordOfXNN 0x6 x.val nn.toNat) = .ok (.ldImm x nn) ∧
    ∃ t, exec (.ldImm x nn) s = .next t ∧ t.readV x = nn ∧ PcPlus 2 s t ∧ OnlyRegsAndPc [x] s t) ∧
  (∀ (x y : Reg) (s : State),
    decodeWord (wordOfXYN 0x8 x.val y.val 0) = .ok (.ldReg x y) ∧
    ∃ t, exec (.ldReg x y) s = .next t ∧ t.readV x = s.readV y ∧ PcPlus 2 s t ∧ OnlyRegsAndPc [x] s t)

/-- 7XNN adds modulo 256 and writes no flag, also when the sum wraps (R136, R133, decision D11). -/
def Obligations.AddImmediateWrapsWithoutAFlag : Prop :=
  ∀ (x : Reg) (nn : Byte) (s : State),
    decodeWord (wordOfXNN 0x7 x.val nn.toNat) = .ok (.addImm x nn) ∧
    ∃ t, exec (.addImm x nn) s = .next t ∧ (t.readV x).toNat = ((s.readV x).toNat + nn.toNat) % 256 ∧ PcPlus 2 s t ∧
      OnlyRegsAndPc [x] s t

/-- 8XY1, 8XY2 and 8XY3 are OR, AND and XOR bit by bit and write no flag (R138 to R140, R133, decision D11). -/
def Obligations.LogicIsBitwiseWithoutAFlag : Prop :=
  ∀ (x y : Reg) (s : State),
    (decodeWord (wordOfXYN 0x8 x.val y.val 1) = .ok (.or x y) ∧
      ∃ t, exec (.or x y) s = .next t ∧
        (∀ k, (t.readV x).getLsbD k = ((s.readV x).getLsbD k || (s.readV y).getLsbD k)) ∧ PcPlus 2 s t ∧
        OnlyRegsAndPc [x] s t) ∧
    (decodeWord (wordOfXYN 0x8 x.val y.val 2) = .ok (.and x y) ∧
      ∃ t, exec (.and x y) s = .next t ∧
        (∀ k, (t.readV x).getLsbD k = ((s.readV x).getLsbD k && (s.readV y).getLsbD k)) ∧ PcPlus 2 s t ∧
        OnlyRegsAndPc [x] s t) ∧
    (decodeWord (wordOfXYN 0x8 x.val y.val 3) = .ok (.xor x y) ∧
      ∃ t, exec (.xor x y) s = .next t ∧
        (∀ k, (t.readV x).getLsbD k = ((s.readV x).getLsbD k ^^ (s.readV y).getLsbD k)) ∧ PcPlus 2 s t ∧
        OnlyRegsAndPc [x] s t)

/-- 8XY4: the sum modulo 256, then VF = 1 exactly when the sum is above 255; when X = F the flag stays in VF (R141,
R131, R132, decision D8). -/
def Obligations.AddWritesSumThenCarry : Prop :=
  ∀ (x y : Reg) (s : State),
    decodeWord (wordOfXYN 0x8 x.val y.val 4) = .ok (.addReg x y) ∧
    ∃ t, exec (.addReg x y) s = .next t ∧
      (x ≠ VF → (t.readV x).toNat = ((s.readV x).toNat + (s.readV y).toNat) % 256) ∧
      t.readV VF = (if 255 < (s.readV x).toNat + (s.readV y).toNat then 1#8 else 0#8) ∧ PcPlus 2 s t ∧
      OnlyRegsAndPc [x, VF] s t

/-- 8XY5 is V[X] - V[Y] and 8XY7 is V[Y] - V[X], modulo 256, then VF = 1 exactly when there is no borrow; when X = F the
flag stays in VF (R142, R144, R131, R132, decision D8). -/
def Obligations.SubtractWritesDifferenceThenNoBorrow : Prop :=
  ∀ (x y : Reg) (s : State),
    (decodeWord (wordOfXYN 0x8 x.val y.val 5) = .ok (.sub x y) ∧
      ∃ t, exec (.sub x y) s = .next t ∧
        (x ≠ VF → (t.readV x).toNat = ((s.readV x).toNat + 256 - (s.readV y).toNat) % 256) ∧
        t.readV VF = (if (s.readV y).toNat ≤ (s.readV x).toNat then 1#8 else 0#8) ∧ PcPlus 2 s t ∧
        OnlyRegsAndPc [x, VF] s t) ∧
    (decodeWord (wordOfXYN 0x8 x.val y.val 7) = .ok (.subn x y) ∧
      ∃ t, exec (.subn x y) s = .next t ∧
        (x ≠ VF → (t.readV x).toNat = ((s.readV y).toNat + 256 - (s.readV x).toNat) % 256) ∧
        t.readV VF = (if (s.readV x).toNat ≤ (s.readV y).toNat then 1#8 else 0#8) ∧ PcPlus 2 s t ∧
        OnlyRegsAndPc [x, VF] s t)

/-- 8XY6 halves and 8XYE doubles V[X] in place, whatever Y names, then VF holds the bit shifted out; when X = F the flag
stays in VF (R143, R145, R134, decision D8). -/
def Obligations.ShiftsWriteResultThenBitOut : Prop :=
  ∀ (x y : Reg) (s : State),
    (decodeWord (wordOfXYN 0x8 x.val y.val 6) = .ok (.shr x y) ∧
      ∃ t, exec (.shr x y) s = .next t ∧ (x ≠ VF → (t.readV x).toNat = (s.readV x).toNat / 2) ∧
        (t.readV VF).toNat = (s.readV x).toNat % 2 ∧ PcPlus 2 s t ∧ OnlyRegsAndPc [x, VF] s t) ∧
    (decodeWord (wordOfXYN 0x8 x.val y.val 0xE) = .ok (.shl x y) ∧
      ∃ t, exec (.shl x y) s = .next t ∧ (x ≠ VF → (t.readV x).toNat = (s.readV x).toNat * 2 % 256) ∧
        (t.readV VF).toNat = (s.readV x).toNat / 128 ∧ PcPlus 2 s t ∧ OnlyRegsAndPc [x, VF] s t)

/-- CXNN, whatever the draw: the bits where NN has 0 are 0; with the byte `r` on rnd_byte the result is `r` AND NN; VF
is an ordinary destination (R146, decisions D11, D13; the draw is free, log 4). -/
def Obligations.RndMasksTheDraw : Prop :=
  ∀ (x : Reg) (nn : Byte) (s : State),
    decodeWord (wordOfXNN 0xC x.val nn.toNat) = .ok (.rnd x nn) ∧
    ∃ t, exec (.rnd x nn) s = .next t ∧ (∀ k, nn.getLsbD k = false → (t.readV x).getLsbD k = false) ∧
      (∀ r, s.rndPort = some r → t.readV x = r &&& nn) ∧ PcPlus 2 s t ∧
      RegsKept [x] s t ∧ MemoryKept s t ∧ IndexKept s t ∧ StackKept s t ∧ TimersKept s t ∧ DisplayKept s t ∧
      InputsKept s t ∧ StatusKept s t

/-! ## The index register and memory -/

/-- R160: ANNN sets I to NNN and changes nothing else but PC. -/
def Obligations.LoadIndexSetsI : Prop :=
  ∀ (nnn : Word) (s : State), nnn.toNat < 4096 →
    decodeWord (wordOfNNN 0xA nnn.toNat) = .ok (.ldI nnn) ∧
    ∃ t, exec (.ldI nnn) s = .next t ∧ t.I = nnn ∧ PcPlus 2 s t ∧ OnlyIndexAndPc s t

/-- FX1E adds V[X] to I modulo 65536 and writes no flag; FX29 sets I to 0x050 + 5 × V[X] with the full V[X] (R161, R162,
decisions D11, D30). -/
def Obligations.IndexArithmetic : Prop :=
  ∀ (x : Reg) (s : State),
    (decodeWord (wordOfXNN 0xF x.val 0x1E) = .ok (.addI x) ∧
      ∃ t, exec (.addI x) s = .next t ∧ t.I.toNat = (s.I.toNat + (s.readV x).toNat) % 65536 ∧ PcPlus 2 s t ∧
        OnlyIndexAndPc s t) ∧
    (decodeWord (wordOfXNN 0xF x.val 0x29) = .ok (.ldF x) ∧
      ∃ t, exec (.ldF x) s = .next t ∧ t.I.toNat = 0x050 + 5 * (s.readV x).toNat ∧ PcPlus 2 s t ∧
        OnlyIndexAndPc s t)

/-- FX33 in bounds stores the hundreds, tens and ones of V[X] at I, I + 1, I + 2 and changes no other byte (R163). It
rests on the spec's decision D17 (0x000 to 0x1FF like any memory, log 12). -/
def Obligations.BcdStoresThreeDigits : Prop :=
  ∀ (x : Reg) (s : State), s.I.toNat + 2 ≤ 0xFFF →
    decodeWord (wordOfXNN 0xF x.val 0x33) = .ok (.ldB x) ∧
    ∃ t, exec (.ldB x) s = .next t ∧
      (t.memRead s.I.toNat).toNat = (s.readV x).toNat / 100 ∧
      (t.memRead (s.I.toNat + 1)).toNat = (s.readV x).toNat / 10 % 10 ∧
      (t.memRead (s.I.toNat + 2)).toNat = (s.readV x).toNat % 10 ∧ PcPlus 2 s t ∧
      OnlyBytesAndPc s.I.toNat 3 s t

/-- FX55 in bounds stores V[0..X] at I .. I + X and changes no other byte; I is unchanged (R164, decision D10). It also
rests on the spec's decision D17 (0x000 to 0x1FF like any memory, log 12). -/
def Obligations.BlockStoreCopiesRegisters : Prop :=
  ∀ (x : Reg) (s : State), s.I.toNat + x.val ≤ 0xFFF →
    decodeWord (wordOfXNN 0xF x.val 0x55) = .ok (.ldMemVx x) ∧
    ∃ t, exec (.ldMemVx x) s = .next t ∧ (∀ k : Reg, k ≤ x → t.memRead (s.I.toNat + k.val) = s.readV k) ∧
      PcPlus 2 s t ∧ OnlyBytesAndPc s.I.toNat (x.val + 1) s t

/-- FX65 in bounds loads V[0..X] from I .. I + X and changes no other register and no memory; I is unchanged (R165,
decision D10). It also rests on the spec's decision D17 (0x000 to 0x1FF like any memory, log 12). -/
def Obligations.BlockLoadCopiesMemory : Prop :=
  ∀ (x : Reg) (s : State), s.I.toNat + x.val ≤ 0xFFF →
    decodeWord (wordOfXNN 0xF x.val 0x65) = .ok (.ldVxMem x) ∧
    ∃ t, exec (.ldVxMem x) s = .next t ∧ (∀ k : Reg, k ≤ x → t.readV k = s.memRead (s.I.toNat + k.val)) ∧
      (∀ k : Reg, x < k → t.readV k = s.readV k) ∧ PcPlus 2 s t ∧
      MemoryKept s t ∧ IndexKept s t ∧ StackKept s t ∧ TimersKept s t ∧ DisplayKept s t ∧ InputsKept s t ∧
      StatusKept s t ∧ DrawsKept s t

/-- DXYN, FX33, FX55 and FX65 whose range passes 0xFFF take OutOfBounds (data, I, length) before any read or write (R65,
R101, R163 to R165; check first, halt and record are decisions D14, D15). It also rests on the spec's decision D16 (odd
addresses, no wrap in bounds, log 12). -/
def Obligations.DataRangesPastTheEndFault : Prop :=
  ∀ (i : Instr) (s : State), 0 < dataBytes i → 0xFFF < s.I.toNat + dataBytes i - 1 →
    ∃ t, exec i s = .next t ∧ TakesFault (.outOfBounds .data s.I.toNat (dataBytes i)) s t

/-- A word stored by FX55 is the word a later fetch at its address reads (R62, R72, decision D18; at an odd address
decision D16). It also rests on the spec's decision D17 (0x000 to 0x1FF like any memory, log 12). -/
def Obligations.StoredBytesAreFetched : Prop :=
  ∀ (x k k' : Reg) (s t : State), s.I.toNat + x.val ≤ 0xFFF → k.val + 1 = k'.val → k' ≤ x →
    exec (.ldMemVx x) s = .next t → t.PC.toNat = s.I.toNat + k.val →
    ∃ w, t.fetchWord = some w ∧ w.toNat = (s.readV k).toNat * 256 + (s.readV k').toNat

/-! ## Keypad -/

/-- EX9E and EXA1 with V[X] at most 0xF skip when that key is down, or up, and change nothing else (R175, R176). It
rests on the spec's decision D22 (the keypad constant in a step, log 18). -/
def Obligations.KeySkipsTestTheKey : Prop :=
  ∀ (x : Reg) (s : State), (s.readV x).toNat ≤ 0xF →
    (decodeWord (wordOfXNN 0xE x.val 0x9E) = .ok (.skp x) ∧
      ∃ t, exec (.skp x) s = .next t ∧
        (s.keypad.getLsbD (s.readV x).toNat = true → PcPlus 4 s t) ∧
        (s.keypad.getLsbD (s.readV x).toNat = false → PcPlus 2 s t) ∧ OnlyRegsAndPc [] s t) ∧
    (decodeWord (wordOfXNN 0xE x.val 0xA1) = .ok (.sknp x) ∧
      ∃ t, exec (.sknp x) s = .next t ∧
        (s.keypad.getLsbD (s.readV x).toNat = false → PcPlus 4 s t) ∧
        (s.keypad.getLsbD (s.readV x).toNat = true → PcPlus 2 s t) ∧ OnlyRegsAndPc [] s t)

/-- EX9E and EXA1 with V[X] above 0xF take OutOfBounds (keypad, V[X], 1) (R178, the spec's decision D9). It also rests
on the spec's decisions D14 (checks before writes, a fault halts, currentOpcode latched by every fetch, log 17), D15
(the fault record, log 17). -/
def Obligations.KeyIndexAboveFifteenFaults : Prop :=
  ∀ (x : Reg) (s : State), 0xF < (s.readV x).toNat →
    (∃ t, exec (.skp x) s = .next t ∧ TakesFault (.outOfBounds .keypad (s.readV x).toNat 1) s t) ∧
    (∃ t, exec (.sknp x) s = .next t ∧ TakesFault (.outOfBounds .keypad (s.readV x).toNat 1) s t)

/-- FX0A with a key down takes the lowest one; with none down nothing changes and PC stays (R177, decision D27). -/
def Obligations.WaitForKeyTakesTheLowest : Prop :=
  ∀ (x : Reg) (s : State),
    decodeWord (wordOfXNN 0xF x.val 0x0A) = .ok (.ldVxK x) ∧
    (∀ k : Reg, s.keypad.getLsbD k.val = true → (∀ j : Reg, j < k → s.keypad.getLsbD j.val = false) →
      ∃ t, exec (.ldVxK x) s = .next t ∧ (t.readV x).toNat = k.val ∧ PcPlus 2 s t ∧ OnlyRegsAndPc [x] s t) ∧
    (s.keypad = 0#16 → exec (.ldVxK x) s = .next s)

/-- A core waiting in FX0A stays where it is, Blocked, at every Step until the host sets a key; the first Step with a
key down then completes (R216, R218, decision D27). It also rests on the spec's decisions D2 (the transactions and
ports, log 16), D16 (odd addresses, no wrap in bounds, log 12). -/
def Obligations.WaitEndsWithAKey : Prop :=
  ∀ (s : State) (rnd : Byte), s.endWaiting →
    (transact (.step rnd) s).2 = .stepped .blocked ∧ (transact (.step rnd) s).1.endWaiting ∧
    (transact (.step rnd) s).1.PC = s.PC ∧
    ∀ keys : BitVec 16, keys ≠ 0#16 →
      (transact (.step rnd) (transact (.setKeypad keys) s).1).2 = .stepped .completed ∧
      PcPlus 2 s (transact (.step rnd) (transact (.setKeypad keys) s).1).1

/-! ## Timers -/

/-- R185 to R187: FX07 reads DT into V[X]; FX15 and FX18 write V[X] to DT and ST; sound_active follows ST (R36, decision
D32). -/
def Obligations.TimerInstructionsMoveOneByte : Prop :=
  ∀ (x : Reg) (s : State),
    (decodeWord (wordOfXNN 0xF x.val 0x07) = .ok (.ldVxDt x) ∧
      ∃ t, exec (.ldVxDt x) s = .next t ∧ t.readV x = s.DT ∧ PcPlus 2 s t ∧ OnlyRegsAndPc [x] s t) ∧
    (decodeWord (wordOfXNN 0xF x.val 0x15) = .ok (.ldDtVx x) ∧
      ∃ t, exec (.ldDtVx x) s = .next t ∧ t.DT = s.readV x ∧ t.ST = s.ST ∧ PcPlus 2 s t ∧
        OnlyRegsAndPc [] s { t with DT := s.DT }) ∧
    (decodeWord (wordOfXNN 0xF x.val 0x18) = .ok (.ldStVx x) ∧
      ∃ t, exec (.ldStVx x) s = .next t ∧ t.ST = s.readV x ∧ t.DT = s.DT ∧ PcPlus 2 s t ∧
        (t.soundActive = true ↔ s.readV x ≠ 0#8) ∧ OnlyRegsAndPc [] s { t with ST := s.ST })

/-- After k Ticks each timer is k lower, never below 0, in every run status, and nothing else has changed (R210, W8,
decision D19). It also rests on the spec's decision D2 (the transactions and ports, log 16). -/
def Obligations.TicksCountDownToZero : Prop :=
  ∀ (k : Nat) (s : State),
    (schedule (List.replicate k .tick) s).DT.toNat = s.DT.toNat - k ∧
    (schedule (List.replicate k .tick) s).ST.toNat = s.ST.toNat - k ∧
    { schedule (List.replicate k .tick) s with DT := s.DT, ST := s.ST } = s

/-- R212: sound_active rises when FX18 writes a nonzero value to a zero ST, and falls when a Tick takes ST from 1 to 0
or FX18 writes 0 to a nonzero ST; no other instruction moves it (R36, decision D32). It also rests on the spec's
decisions D2 (the transactions and ports, log 16), D14 (checks before writes, a fault halts, currentOpcode latched by
every fetch, log 17), D19 (ticks in every run status, log 20). -/
def Obligations.SoundFollowsTheSoundTimer : Prop :=
  (∀ (x : Reg) (s t : State), exec (.ldStVx x) s = .next t → s.ST = 0#8 → s.readV x ≠ 0#8 →
    s.soundActive = false ∧ t.soundActive = true) ∧
  (∀ (x : Reg) (s t : State), exec (.ldStVx x) s = .next t → s.ST ≠ 0#8 → s.readV x = 0#8 →
    s.soundActive = true ∧ t.soundActive = false) ∧
  (∀ s : State, s.ST = 1#8 → s.soundActive = true ∧ (transact .tick s).1.soundActive = false) ∧
  (∀ s : State, 1 < s.ST.toNat → (transact .tick s).1.soundActive = true) ∧
  (∀ (i : Instr) (s t : State), exec i s = .next t → (∀ x, i ≠ .ldStVx x) → t.soundActive = s.soundActive)

/-! ## The host's transactions -/

/-- While halted, a Step changes no state and returns the same fault, and after any schedule without Initialize the core
is halted with the same record and its registers, PC, stack, display and opcode as they were; Initialize sets it running
(R200, R202, R230, decisions D14, D31). It also rests on the spec's decisions D2 (the transactions and ports, log 16),
D19 (ticks in every run status, log 20). -/
def Obligations.HaltedCoreStaysHalted : Prop :=
  ∀ (s : State) (r : FaultRecord), s.runStatus = .halted r →
    step s = .fault (.halted r) ∧
    (∀ rnd, transact (.step rnd) s = (s, .stepped (.fault r))) ∧
    (∀ trs : List Transaction, (∀ tr ∈ trs, isInit tr = false) → FrozenAlike s (schedule trs s)) ∧
    (∀ font, (transact (.initCore font) s).1.runStatus = .running)

/-- SetKeypad writes the keypad alone and ClearRedraw clears the redraw flag alone, in every run status (R39, R38, R44,
decision D2); a read changes nothing. It also rests on the spec's decision D31 (every transaction but Step acts while
halted, Initialize at any time, log 20). -/
def Obligations.InputTransactionsWriteOneField : Prop :=
  ∀ (s : State) (keys : BitVec 16) (port : ReadPort),
    (transact (.setKeypad keys) s).1 = { s with keypad := keys } ∧
    (transact .clearRedraw s).1 = { s with redrawRequested := false } ∧
    (transact (.read port) s).1 = s

/-- R44: each read port shows its element at the port's width: 1 bit for a cell, redraw, sound_active and halted, 8 for
the timers, 16 for keypad_out and current_opcode. The ports are the spec's decision D2, sound_active D32, halted D14;
the debug reads' widths, each its element's own, are the model's choice (log 16). -/
def Obligations.ReadPortsShowTheState : Prop :=
  ∀ (s : State) (x : Fin 64) (y : Fin 32) (v : Reg) (j : Fin 16) (a : Fin 4096),
    (transact (.read (.fb x y)) s).2 = .value (.bit (if s.FB x y = true then 1#1 else 0#1)) ∧
    (transact (.read .redraw) s).2 = .value (.bit (if s.redrawRequested = true then 1#1 else 0#1)) ∧
    (transact (.read .delayTimer) s).2 = .value (.byte s.DT) ∧
    (transact (.read .soundTimer) s).2 = .value (.byte s.ST) ∧
    (transact (.read .soundActive) s).2 = .value (.bit (if s.ST = 0#8 then 0#1 else 1#1)) ∧
    (transact (.read .keypadOut) s).2 = .value (.word s.keypad) ∧
    (transact (.read .currentOpcode) s).2 = .value (.word s.currentOpcode) ∧
    ((transact (.read .halted) s).2 = .value (.bit 1#1) ↔ ∃ r, s.runStatus = .halted r) ∧
    ((transact (.read .halted) s).2 = .value (.bit 0#1) ↔ s.runStatus = .running) ∧
    (transact (.read (.dbgV v)) s).2 = .value (.byte (s.readV v)) ∧
    (transact (.read .dbgI) s).2 = .value (.word s.I) ∧
    (transact (.read .dbgPC) s).2 = .value (.word s.PC) ∧
    (transact (.read .dbgSP) s).2 = .value (.depth s.SP) ∧
    (transact (.read (.dbgStack j)) s).2 = .value (.word s.stack[j.val]) ∧
    (transact (.read (.dbgMemory a)) s).2 = .value (.byte (s.memRead a.val))

/-- LoadProgram: a read failure first, then a ROM above 3584 bytes, change nothing; otherwise the bytes stand from 0x200
on and nothing else changes, in every run status (R68, R204, decision D23). It also rests on the spec's decisions D2
(the transactions and ports, log 16), D31 (every transaction but Step acts while halted, Initialize at any time, log
20). -/
def Obligations.LoadProgramCopiesTheRom : Prop :=
  ∀ (bytes : List Byte) (s : State),
    transact (.loadProgram bytes false) s = (s, .loaded .romReadFailure) ∧
    (3584 < bytes.length → transact (.loadProgram bytes true) s = (s, .loaded .romTooLarge)) ∧
    (bytes.length ≤ 3584 →
      (transact (.loadProgram bytes true) s).2 = .loaded .ok ∧
      (∀ (k : Nat) (h : k < bytes.length), (transact (.loadProgram bytes true) s).1.memRead (0x200 + k) = bytes[k]) ∧
      MemoryKeptOutside 0x200 bytes.length s (transact (.loadProgram bytes true) s).1 ∧
      { (transact (.loadProgram bytes true) s).1 with memory := s.memory } = s)

/-- Initialize, from every state and with every font table: memory is 0 but for the 80 font bytes at 0x050, and every
other element has R46's value (PC = 0x200 is decision D4, the zeros of I, SP, DT, ST, currentOpcode and redrawRequested
D5, Running D14). The state after reset is the one the default table gives (log 2). It also rests on the spec's
decisions D2 (the transactions and ports, log 16), D31 (every transaction but Step acts while halted, Initialize at any
time, log 20). -/
def Obligations.InitializeGivesTheResetState : Prop :=
  (∀ (font : Vector Byte 80) (s t : State), (transact (.initCore font) s).1 = t →
    (∀ (k : Nat) (h : k < 80), t.memRead (0x050 + k) = font[k]) ∧
    (∀ a, a < 0x050 ∨ 0x0A0 ≤ a → t.memRead a = 0#8) ∧
    (∀ x, t.readV x = 0#8) ∧ (∀ j : Fin 16, t.stack[j.val] = 0#16) ∧ (∀ x y, t.FB x y = false) ∧
    t.keypad = 0#16 ∧ t.PC = 0x200#16 ∧ t.I = 0#16 ∧ t.SP.val = 0 ∧ t.DT = 0#8 ∧ t.ST = 0#8 ∧
    t.currentOpcode = 0#16 ∧ t.redrawRequested = false ∧ t.runStatus = .running) ∧
  (transact (.initCore defaultFont) State.reset).1 = State.reset

/-- A core at a jump to its own address keeps completing steps for ever: after any number of them only currentOpcode has
changed, and it is still at the jump (R123, R218, decision D25; at an odd address decision D16). -/
def Obligations.SelfJumpRunsForEver : Prop :=
  ∀ (n : Nat) (s : State), s.endSelfJump →
    ∃ t, Host.Core.run Sys2Proof.core n s = .next t ∧ t.endSelfJump ∧
      (t = s ∨ t = { s with currentOpcode := 0x1000#16 + s.PC })
end

