-- ==== Sys2Proof/Laws/Decode.lean ====
section
/-! SUPPORT. The fields of the words the encoder builds, and what the decoder can answer. -/

namespace Sys2Proof

/-- Bits of the words the encoder builds. -/
theorem getLsbD_wordNNN (f : BitVec 4) (nnn : Word) (i : Nat) (hi : i < 16) :
    (wordNNN f nnn).getLsbD i = if i < 12 then nnn.getLsbD i else f.getLsbD (i - 12) := by
  by_cases h : i < 12
  · simp [wordNNN, h, hi]
  · simp [wordNNN, h, hi]

theorem getLsbD_wordXNN (f : BitVec 4) (x : Reg) (nn : Byte) (i : Nat) (hi : i < 16) :
    (wordXNN f x nn).getLsbD i =
      if i < 8 then nn.getLsbD i else if i < 12 then (regField x).getLsbD (i - 8) else f.getLsbD (i - 12) := by
  by_cases h8 : i < 8
  · have h12 : i < 12 := by omega
    simp [wordXNN, h8, h12, hi]
  · have hn : nn.getLsbD i = false := BitVec.getLsbD_of_ge _ _ (by omega)
    by_cases h12 : i < 12
    · simp [wordXNN, h8, h12, hi, hn]
    · have hx : (regField x).getLsbD (i - 8) = false := BitVec.getLsbD_of_ge _ _ (by omega)
      simp [wordXNN, h8, h12, hi, hn, hx]

theorem getLsbD_wordXYN (f : BitVec 4) (x y : Reg) (n : BitVec 4) (i : Nat) (hi : i < 16) :
    (wordXYN f x y n).getLsbD i =
      if i < 4 then n.getLsbD i else if i < 8 then (regField y).getLsbD (i - 4)
      else if i < 12 then (regField x).getLsbD (i - 8) else f.getLsbD (i - 12) := by
  by_cases h4 : i < 4
  · have h8 : i < 8 := by omega
    have h12 : i < 12 := by omega
    simp [wordXYN, h4, h8, h12, hi]
  · have hn : n.getLsbD i = false := BitVec.getLsbD_of_ge _ _ (by omega)
    by_cases h8 : i < 8
    · have h12 : i < 12 := by omega
      simp [wordXYN, h4, h8, h12, hi, hn]
    · have hy : (regField y).getLsbD (i - 4) = false := BitVec.getLsbD_of_ge _ _ (by omega)
      by_cases h12 : i < 12
      · simp [wordXYN, h4, h8, h12, hi, hn, hy]
      · have hx : (regField x).getLsbD (i - 8) = false := BitVec.getLsbD_of_ge _ _ (by omega)
        simp [wordXYN, h4, h8, h12, hi, hn, hx, hy]

@[simp] theorem fieldF_wordNNN (f : BitVec 4) (nnn : Word) : fieldF (wordNNN f nnn) = f := by
  apply BitVec.eq_of_getLsbD_eq
  intro i hi
  simp [fieldF, hi, getLsbD_wordNNN _ _ (12 + i) (by omega)]

@[simp] theorem fieldNNN_wordNNN (f : BitVec 4) (nnn : Word) :
    fieldNNN (wordNNN f nnn) = (nnn.setWidth 12).setWidth 16 := by
  apply BitVec.eq_of_getLsbD_eq
  intro i hi
  by_cases h : i < 12
  · have e := getLsbD_wordNNN f nnn i hi
    rw [if_pos h] at e
    simpa [fieldNNN, h, hi] using e
  · simp [fieldNNN, h]

@[simp] theorem fieldF_wordXNN (f : BitVec 4) (x : Reg) (nn : Byte) : fieldF (wordXNN f x nn) = f := by
  apply BitVec.eq_of_getLsbD_eq
  intro i hi
  have h : ¬ 12 + i < 8 := by omega
  simp [fieldF, hi, getLsbD_wordXNN _ _ _ (12 + i) (by omega), h]

theorem toFin_regField (x : Reg) : (regField x).toFin = x := by
  revert x; decide

@[simp] theorem fieldX_wordXNN (f : BitVec 4) (x : Reg) (nn : Byte) : fieldX (wordXNN f x nn) = x := by
  have : (wordXNN f x nn).extractLsb' 8 4 = regField x := by
    apply BitVec.eq_of_getLsbD_eq
    intro i hi
    have h1 : 8 + i < 12 := by omega
    simp [hi, getLsbD_wordXNN _ _ _ (8 + i) (by omega), h1]
  rw [fieldX, this, toFin_regField]

@[simp] theorem fieldNN_wordXNN (f : BitVec 4) (x : Reg) (nn : Byte) : fieldNN (wordXNN f x nn) = nn := by
  apply BitVec.eq_of_getLsbD_eq
  intro i hi
  simp [fieldNN, hi, getLsbD_wordXNN _ _ _ i (by omega)]

@[simp] theorem fieldF_wordXYN (f : BitVec 4) (x y : Reg) (n : BitVec 4) : fieldF (wordXYN f x y n) = f := by
  apply BitVec.eq_of_getLsbD_eq
  intro i hi
  have h1 : ¬ 12 + i < 4 := by omega
  have h2 : ¬ 12 + i < 8 := by omega
  simp [fieldF, hi, getLsbD_wordXYN _ _ _ _ (12 + i) (by omega), h1, h2]

@[simp] theorem fieldX_wordXYN (f : BitVec 4) (x y : Reg) (n : BitVec 4) : fieldX (wordXYN f x y n) = x := by
  have : (wordXYN f x y n).extractLsb' 8 4 = regField x := by
    apply BitVec.eq_of_getLsbD_eq
    intro i hi
    have h1 : 8 + i < 12 := by omega
    have h2 : ¬ 8 + i < 4 := by omega
    simp [hi, getLsbD_wordXYN _ _ _ _ (8 + i) (by omega), h1, h2]
  rw [fieldX, this, toFin_regField]

@[simp] theorem fieldY_wordXYN (f : BitVec 4) (x y : Reg) (n : BitVec 4) : fieldY (wordXYN f x y n) = y := by
  have : (wordXYN f x y n).extractLsb' 4 4 = regField y := by
    apply BitVec.eq_of_getLsbD_eq
    intro i hi
    have h2 : 4 + i < 8 := by omega
    simp [hi, getLsbD_wordXYN _ _ _ _ (4 + i) (by omega), h2]
  rw [fieldY, this, toFin_regField]

@[simp] theorem fieldN_wordXYN (f : BitVec 4) (x y : Reg) (n : BitVec 4) : fieldN (wordXYN f x y n) = n := by
  apply BitVec.eq_of_getLsbD_eq
  intro i hi
  simp [fieldN, hi, getLsbD_wordXYN _ _ _ _ i (by omega)]

/-- A 12-bit address survives its field. -/
theorem Word.setWidth_of_isAddress12 {nnn : Word} (h : nnn.isAddress12 = true) :
    (nnn.setWidth 12).setWidth 16 = nnn := by
  simp only [Word.isAddress12, decide_eq_true_eq] at h
  apply BitVec.eq_of_toNat_eq
  simp only [BitVec.toNat_setWidth]
  omega

theorem fieldNNN_isAddress12 (w : Word) : (fieldNNN w).isAddress12 = true := by
  simp only [Word.isAddress12, fieldNNN, decide_eq_true_eq, BitVec.toNat_setWidth, BitVec.extractLsb'_toNat]
  omega

theorem regField_toFin (a : BitVec 4) : regField a.toFin = a := by
  revert a; decide

/-- A word is its family, X, Y and N fields. -/
theorem word_eq_XYN (w : Word) : wordXYN (fieldF w) (fieldX w) (fieldY w) (fieldN w) = w := by
  apply BitVec.eq_of_getLsbD_eq
  intro i hi
  rw [getLsbD_wordXYN _ _ _ _ i hi]
  simp only [fieldX, fieldY, regField_toFin, fieldF, fieldN, BitVec.getLsbD_extractLsb']
  by_cases h1 : i < 4
  · simp [h1]
  · by_cases h2 : i < 8
    · have c : i - 4 < 4 := by omega
      have d : 4 + (i - 4) = i := by omega
      simp [h1, h2, c, d]
    · by_cases h3 : i < 12
      · have c : i - 8 < 4 := by omega
        have d : 8 + (i - 8) = i := by omega
        simp [h1, h2, h3, c, d]
      · have c : i - 12 < 4 := by omega
        have d : 12 + (i - 12) = i := by omega
        simp [h1, h2, h3, c, d]

/-- A word is its family, X and NN fields. -/
theorem word_eq_XNN (w : Word) : wordXNN (fieldF w) (fieldX w) (fieldNN w) = w := by
  apply BitVec.eq_of_getLsbD_eq
  intro i hi
  rw [getLsbD_wordXNN _ _ _ i hi]
  simp only [fieldX, regField_toFin, fieldF, fieldNN, BitVec.getLsbD_extractLsb']
  by_cases h2 : i < 8
  · simp [h2]
  · by_cases h3 : i < 12
    · have c : i - 8 < 4 := by omega
      have d : 8 + (i - 8) = i := by omega
      simp [h2, h3, c, d]
    · have c : i - 12 < 4 := by omega
      have d : 12 + (i - 12) = i := by omega
      simp [h2, h3, c, d]

/-- A word is its family and NNN fields. -/
theorem word_eq_NNN (w : Word) : wordNNN (fieldF w) (fieldNNN w) = w := by
  apply BitVec.eq_of_getLsbD_eq
  intro i hi
  rw [getLsbD_wordNNN _ _ i hi]
  simp only [fieldF, fieldNNN, BitVec.getLsbD_extractLsb', BitVec.getLsbD_setWidth]
  by_cases h3 : i < 12
  · simp [h3, hi]
  · have c : i - 12 < 4 := by omega
    have d : 12 + (i - 12) = i := by omega
    simp [h3, c, d]

/-- The fields of a word as digits of its value. -/
theorem toNat_fieldF (w : Word) : (fieldF w).toNat = w.toNat / 4096 := by
  have := w.isLt
  simp only [fieldF, BitVec.extractLsb'_toNat, Nat.shiftRight_eq_div_pow]
  omega

theorem toNat_fieldN (w : Word) : (fieldN w).toNat = w.toNat % 16 := by
  simp [fieldN, BitVec.extractLsb'_toNat]

theorem toNat_fieldNN (w : Word) : (fieldNN w).toNat = w.toNat % 256 := by
  simp [fieldNN, BitVec.extractLsb'_toNat]

/-- Whatever the decoder answers is a well-formed instruction. -/
theorem decodeWord_wf {w : Word} {i : Instr} (h : decodeWord w = .ok i) : i.wf = true := by
  unfold decodeWord at h
  split at h
  case h_1 => split at h <;> [skip; split at h] <;> first | (cases h; rfl) | cases h
  case h_9 => unfold decodeFamily8 at h; split at h <;> first | (cases h; rfl) | cases h
  case h_14 => unfold decodeFamilyE at h; split at h <;> first | (cases h; rfl) | cases h
  case h_15 => unfold decodeFamilyF at h; split at h <;> first | (cases h; rfl) | cases h
  all_goals
    first
    | (cases h; exact fieldNNN_isAddress12 w)
    | (cases h; rfl)
    | (cases h; simp only [Instr.wf, isNibble, decide_eq_true_eq]; exact (fieldN w).isLt)
    | (split at h <;> first | (cases h; rfl) | cases h)
    | cases h

/-- A word the decoder rejects is rejected under its own name. -/
theorem decodeWord_error {w : Word} {r : Reject} (h : decodeWord w = .error r) : r = .unknownOpcode w := by
  unfold decodeWord at h
  split at h
  case h_1 => split at h <;> [skip; split at h] <;> first | (cases h; rfl) | cases h
  case h_9 => unfold decodeFamily8 at h; split at h <;> first | (cases h; rfl) | cases h
  case h_14 => unfold decodeFamilyE at h; split at h <;> first | (cases h; rfl) | cases h
  case h_15 => unfold decodeFamilyF at h; split at h <;> first | (cases h; rfl) | cases h
  all_goals
    first
    | (cases h; rfl)
    | (split at h <;> first | (cases h; rfl) | cases h)
    | cases h

/-- The two bytes of a word make the word again (R62). -/
@[simp] theorem wordOfBytes_bytesOfWord (w : Word) :
    wordOfBytes (w.extractLsb' 8 8) (w.extractLsb' 0 8) = w := by
  apply BitVec.eq_of_getLsbD_eq
  intro i hi
  by_cases h : i < 8
  · simp [wordOfBytes, h, hi]
  · have a : i - 8 < 8 := by omega
    have b : 8 + (i - 8) = i := by omega
    simp [wordOfBytes, h, hi, a, b]

/-- The value of a big-endian word (R62). -/
theorem toNat_wordOfBytes (hi lo : Byte) : (wordOfBytes hi lo).toNat = hi.toNat * 256 + lo.toNat := by
  have h1 := hi.isLt
  have h2 := lo.isLt
  have e : hi.toNat % 65536 = hi.toNat := by omega
  have e' : lo.toNat % 65536 = lo.toNat := by omega
  have e2 : hi.toNat <<< 8 % 65536 = hi.toNat <<< 8 := by rw [Nat.shiftLeft_eq]; omega
  simp only [wordOfBytes, BitVec.toNat_or, BitVec.toNat_shiftLeft, BitVec.toNat_setWidth, Nat.reducePow, e, e', e2]
  rw [← Nat.shiftLeft_add_eq_or_of_lt h2, Nat.shiftLeft_eq]

/-! ## The masks of the opcode map (R83) -/

theorem and_F000 (w : Word) : w &&& 0xF000#16 = (fieldF w).setWidth 16 <<< 12 := by
  apply BitVec.eq_of_getLsbD_eq
  intro i hi
  interval_cases i <;> simp [fieldF]

theorem and_F00F (w : Word) :
    w &&& 0xF00F#16 = (fieldF w).setWidth 16 <<< 12 ||| (fieldN w).setWidth 16 := by
  apply BitVec.eq_of_getLsbD_eq
  intro i hi
  interval_cases i <;> simp [fieldF, fieldN]

theorem and_F0FF (w : Word) :
    w &&& 0xF0FF#16 = (fieldF w).setWidth 16 <<< 12 ||| (fieldNN w).setWidth 16 := by
  apply BitVec.eq_of_getLsbD_eq
  intro i hi
  interval_cases i <;> simp [fieldF, fieldNN]

end Sys2Proof
end

