-- ==== Sys2Proof/Laws/State.lean ====
section
/-! SUPPORT. One lemma per field per named update of the state. -/

namespace Sys2Proof.Machine.State

section setMemory
variable (s : State) (a : Memory)
@[simp] theorem setMemory_memory : (s.setMemory a).memory = a := rfl
@[simp] theorem setMemory_V : (s.setMemory a).V = s.V := rfl
@[simp] theorem setMemory_I : (s.setMemory a).I = s.I := rfl
@[simp] theorem setMemory_PC : (s.setMemory a).PC = s.PC := rfl
@[simp] theorem setMemory_stack : (s.setMemory a).stack = s.stack := rfl
@[simp] theorem setMemory_SP : (s.setMemory a).SP = s.SP := rfl
@[simp] theorem setMemory_DT : (s.setMemory a).DT = s.DT := rfl
@[simp] theorem setMemory_ST : (s.setMemory a).ST = s.ST := rfl
@[simp] theorem setMemory_display : (s.setMemory a).display = s.display := rfl
@[simp] theorem setMemory_redrawRequested : (s.setMemory a).redrawRequested = s.redrawRequested := rfl
@[simp] theorem setMemory_keypad : (s.setMemory a).keypad = s.keypad := rfl
@[simp] theorem setMemory_currentOpcode : (s.setMemory a).currentOpcode = s.currentOpcode := rfl
@[simp] theorem setMemory_runStatus : (s.setMemory a).runStatus = s.runStatus := rfl
@[simp] theorem setMemory_rndPort : (s.setMemory a).rndPort = s.rndPort := rfl
@[simp] theorem setMemory_rndCount : (s.setMemory a).rndCount = s.rndCount := rfl
end setMemory

section setV
variable (s : State) (a : Vector Byte 16)
@[simp] theorem setV_memory : (s.setV a).memory = s.memory := rfl
@[simp] theorem setV_V : (s.setV a).V = a := rfl
@[simp] theorem setV_I : (s.setV a).I = s.I := rfl
@[simp] theorem setV_PC : (s.setV a).PC = s.PC := rfl
@[simp] theorem setV_stack : (s.setV a).stack = s.stack := rfl
@[simp] theorem setV_SP : (s.setV a).SP = s.SP := rfl
@[simp] theorem setV_DT : (s.setV a).DT = s.DT := rfl
@[simp] theorem setV_ST : (s.setV a).ST = s.ST := rfl
@[simp] theorem setV_display : (s.setV a).display = s.display := rfl
@[simp] theorem setV_redrawRequested : (s.setV a).redrawRequested = s.redrawRequested := rfl
@[simp] theorem setV_keypad : (s.setV a).keypad = s.keypad := rfl
@[simp] theorem setV_currentOpcode : (s.setV a).currentOpcode = s.currentOpcode := rfl
@[simp] theorem setV_runStatus : (s.setV a).runStatus = s.runStatus := rfl
@[simp] theorem setV_rndPort : (s.setV a).rndPort = s.rndPort := rfl
@[simp] theorem setV_rndCount : (s.setV a).rndCount = s.rndCount := rfl
end setV

section setI
variable (s : State) (a : Word)
@[simp] theorem setI_memory : (s.setI a).memory = s.memory := rfl
@[simp] theorem setI_V : (s.setI a).V = s.V := rfl
@[simp] theorem setI_I : (s.setI a).I = a := rfl
@[simp] theorem setI_PC : (s.setI a).PC = s.PC := rfl
@[simp] theorem setI_stack : (s.setI a).stack = s.stack := rfl
@[simp] theorem setI_SP : (s.setI a).SP = s.SP := rfl
@[simp] theorem setI_DT : (s.setI a).DT = s.DT := rfl
@[simp] theorem setI_ST : (s.setI a).ST = s.ST := rfl
@[simp] theorem setI_display : (s.setI a).display = s.display := rfl
@[simp] theorem setI_redrawRequested : (s.setI a).redrawRequested = s.redrawRequested := rfl
@[simp] theorem setI_keypad : (s.setI a).keypad = s.keypad := rfl
@[simp] theorem setI_currentOpcode : (s.setI a).currentOpcode = s.currentOpcode := rfl
@[simp] theorem setI_runStatus : (s.setI a).runStatus = s.runStatus := rfl
@[simp] theorem setI_rndPort : (s.setI a).rndPort = s.rndPort := rfl
@[simp] theorem setI_rndCount : (s.setI a).rndCount = s.rndCount := rfl
end setI

section setPC
variable (s : State) (a : Word)
@[simp] theorem setPC_memory : (s.setPC a).memory = s.memory := rfl
@[simp] theorem setPC_V : (s.setPC a).V = s.V := rfl
@[simp] theorem setPC_I : (s.setPC a).I = s.I := rfl
@[simp] theorem setPC_PC : (s.setPC a).PC = a := rfl
@[simp] theorem setPC_stack : (s.setPC a).stack = s.stack := rfl
@[simp] theorem setPC_SP : (s.setPC a).SP = s.SP := rfl
@[simp] theorem setPC_DT : (s.setPC a).DT = s.DT := rfl
@[simp] theorem setPC_ST : (s.setPC a).ST = s.ST := rfl
@[simp] theorem setPC_display : (s.setPC a).display = s.display := rfl
@[simp] theorem setPC_redrawRequested : (s.setPC a).redrawRequested = s.redrawRequested := rfl
@[simp] theorem setPC_keypad : (s.setPC a).keypad = s.keypad := rfl
@[simp] theorem setPC_currentOpcode : (s.setPC a).currentOpcode = s.currentOpcode := rfl
@[simp] theorem setPC_runStatus : (s.setPC a).runStatus = s.runStatus := rfl
@[simp] theorem setPC_rndPort : (s.setPC a).rndPort = s.rndPort := rfl
@[simp] theorem setPC_rndCount : (s.setPC a).rndCount = s.rndCount := rfl
end setPC

section setStack
variable (s : State) (a : Vector Word 16)
@[simp] theorem setStack_memory : (s.setStack a).memory = s.memory := rfl
@[simp] theorem setStack_V : (s.setStack a).V = s.V := rfl
@[simp] theorem setStack_I : (s.setStack a).I = s.I := rfl
@[simp] theorem setStack_PC : (s.setStack a).PC = s.PC := rfl
@[simp] theorem setStack_stack : (s.setStack a).stack = a := rfl
@[simp] theorem setStack_SP : (s.setStack a).SP = s.SP := rfl
@[simp] theorem setStack_DT : (s.setStack a).DT = s.DT := rfl
@[simp] theorem setStack_ST : (s.setStack a).ST = s.ST := rfl
@[simp] theorem setStack_display : (s.setStack a).display = s.display := rfl
@[simp] theorem setStack_redrawRequested : (s.setStack a).redrawRequested = s.redrawRequested := rfl
@[simp] theorem setStack_keypad : (s.setStack a).keypad = s.keypad := rfl
@[simp] theorem setStack_currentOpcode : (s.setStack a).currentOpcode = s.currentOpcode := rfl
@[simp] theorem setStack_runStatus : (s.setStack a).runStatus = s.runStatus := rfl
@[simp] theorem setStack_rndPort : (s.setStack a).rndPort = s.rndPort := rfl
@[simp] theorem setStack_rndCount : (s.setStack a).rndCount = s.rndCount := rfl
end setStack

section setSP
variable (s : State) (a : Fin 17)
@[simp] theorem setSP_memory : (s.setSP a).memory = s.memory := rfl
@[simp] theorem setSP_V : (s.setSP a).V = s.V := rfl
@[simp] theorem setSP_I : (s.setSP a).I = s.I := rfl
@[simp] theorem setSP_PC : (s.setSP a).PC = s.PC := rfl
@[simp] theorem setSP_stack : (s.setSP a).stack = s.stack := rfl
@[simp] theorem setSP_SP : (s.setSP a).SP = a := rfl
@[simp] theorem setSP_DT : (s.setSP a).DT = s.DT := rfl
@[simp] theorem setSP_ST : (s.setSP a).ST = s.ST := rfl
@[simp] theorem setSP_display : (s.setSP a).display = s.display := rfl
@[simp] theorem setSP_redrawRequested : (s.setSP a).redrawRequested = s.redrawRequested := rfl
@[simp] theorem setSP_keypad : (s.setSP a).keypad = s.keypad := rfl
@[simp] theorem setSP_currentOpcode : (s.setSP a).currentOpcode = s.currentOpcode := rfl
@[simp] theorem setSP_runStatus : (s.setSP a).runStatus = s.runStatus := rfl
@[simp] theorem setSP_rndPort : (s.setSP a).rndPort = s.rndPort := rfl
@[simp] theorem setSP_rndCount : (s.setSP a).rndCount = s.rndCount := rfl
end setSP

section setDT
variable (s : State) (a : Byte)
@[simp] theorem setDT_memory : (s.setDT a).memory = s.memory := rfl
@[simp] theorem setDT_V : (s.setDT a).V = s.V := rfl
@[simp] theorem setDT_I : (s.setDT a).I = s.I := rfl
@[simp] theorem setDT_PC : (s.setDT a).PC = s.PC := rfl
@[simp] theorem setDT_stack : (s.setDT a).stack = s.stack := rfl
@[simp] theorem setDT_SP : (s.setDT a).SP = s.SP := rfl
@[simp] theorem setDT_DT : (s.setDT a).DT = a := rfl
@[simp] theorem setDT_ST : (s.setDT a).ST = s.ST := rfl
@[simp] theorem setDT_display : (s.setDT a).display = s.display := rfl
@[simp] theorem setDT_redrawRequested : (s.setDT a).redrawRequested = s.redrawRequested := rfl
@[simp] theorem setDT_keypad : (s.setDT a).keypad = s.keypad := rfl
@[simp] theorem setDT_currentOpcode : (s.setDT a).currentOpcode = s.currentOpcode := rfl
@[simp] theorem setDT_runStatus : (s.setDT a).runStatus = s.runStatus := rfl
@[simp] theorem setDT_rndPort : (s.setDT a).rndPort = s.rndPort := rfl
@[simp] theorem setDT_rndCount : (s.setDT a).rndCount = s.rndCount := rfl
end setDT

section setST
variable (s : State) (a : Byte)
@[simp] theorem setST_memory : (s.setST a).memory = s.memory := rfl
@[simp] theorem setST_V : (s.setST a).V = s.V := rfl
@[simp] theorem setST_I : (s.setST a).I = s.I := rfl
@[simp] theorem setST_PC : (s.setST a).PC = s.PC := rfl
@[simp] theorem setST_stack : (s.setST a).stack = s.stack := rfl
@[simp] theorem setST_SP : (s.setST a).SP = s.SP := rfl
@[simp] theorem setST_DT : (s.setST a).DT = s.DT := rfl
@[simp] theorem setST_ST : (s.setST a).ST = a := rfl
@[simp] theorem setST_display : (s.setST a).display = s.display := rfl
@[simp] theorem setST_redrawRequested : (s.setST a).redrawRequested = s.redrawRequested := rfl
@[simp] theorem setST_keypad : (s.setST a).keypad = s.keypad := rfl
@[simp] theorem setST_currentOpcode : (s.setST a).currentOpcode = s.currentOpcode := rfl
@[simp] theorem setST_runStatus : (s.setST a).runStatus = s.runStatus := rfl
@[simp] theorem setST_rndPort : (s.setST a).rndPort = s.rndPort := rfl
@[simp] theorem setST_rndCount : (s.setST a).rndCount = s.rndCount := rfl
end setST

section setDisplay
variable (s : State) (a : Display)
@[simp] theorem setDisplay_memory : (s.setDisplay a).memory = s.memory := rfl
@[simp] theorem setDisplay_V : (s.setDisplay a).V = s.V := rfl
@[simp] theorem setDisplay_I : (s.setDisplay a).I = s.I := rfl
@[simp] theorem setDisplay_PC : (s.setDisplay a).PC = s.PC := rfl
@[simp] theorem setDisplay_stack : (s.setDisplay a).stack = s.stack := rfl
@[simp] theorem setDisplay_SP : (s.setDisplay a).SP = s.SP := rfl
@[simp] theorem setDisplay_DT : (s.setDisplay a).DT = s.DT := rfl
@[simp] theorem setDisplay_ST : (s.setDisplay a).ST = s.ST := rfl
@[simp] theorem setDisplay_display : (s.setDisplay a).display = a := rfl
@[simp] theorem setDisplay_redrawRequested : (s.setDisplay a).redrawRequested = s.redrawRequested := rfl
@[simp] theorem setDisplay_keypad : (s.setDisplay a).keypad = s.keypad := rfl
@[simp] theorem setDisplay_currentOpcode : (s.setDisplay a).currentOpcode = s.currentOpcode := rfl
@[simp] theorem setDisplay_runStatus : (s.setDisplay a).runStatus = s.runStatus := rfl
@[simp] theorem setDisplay_rndPort : (s.setDisplay a).rndPort = s.rndPort := rfl
@[simp] theorem setDisplay_rndCount : (s.setDisplay a).rndCount = s.rndCount := rfl
end setDisplay

section setRedraw
variable (s : State) (a : Bool)
@[simp] theorem setRedraw_memory : (s.setRedraw a).memory = s.memory := rfl
@[simp] theorem setRedraw_V : (s.setRedraw a).V = s.V := rfl
@[simp] theorem setRedraw_I : (s.setRedraw a).I = s.I := rfl
@[simp] theorem setRedraw_PC : (s.setRedraw a).PC = s.PC := rfl
@[simp] theorem setRedraw_stack : (s.setRedraw a).stack = s.stack := rfl
@[simp] theorem setRedraw_SP : (s.setRedraw a).SP = s.SP := rfl
@[simp] theorem setRedraw_DT : (s.setRedraw a).DT = s.DT := rfl
@[simp] theorem setRedraw_ST : (s.setRedraw a).ST = s.ST := rfl
@[simp] theorem setRedraw_display : (s.setRedraw a).display = s.display := rfl
@[simp] theorem setRedraw_redrawRequested : (s.setRedraw a).redrawRequested = a := rfl
@[simp] theorem setRedraw_keypad : (s.setRedraw a).keypad = s.keypad := rfl
@[simp] theorem setRedraw_currentOpcode : (s.setRedraw a).currentOpcode = s.currentOpcode := rfl
@[simp] theorem setRedraw_runStatus : (s.setRedraw a).runStatus = s.runStatus := rfl
@[simp] theorem setRedraw_rndPort : (s.setRedraw a).rndPort = s.rndPort := rfl
@[simp] theorem setRedraw_rndCount : (s.setRedraw a).rndCount = s.rndCount := rfl
end setRedraw

section setKeypad
variable (s : State) (a : BitVec 16)
@[simp] theorem setKeypad_memory : (s.setKeypad a).memory = s.memory := rfl
@[simp] theorem setKeypad_V : (s.setKeypad a).V = s.V := rfl
@[simp] theorem setKeypad_I : (s.setKeypad a).I = s.I := rfl
@[simp] theorem setKeypad_PC : (s.setKeypad a).PC = s.PC := rfl
@[simp] theorem setKeypad_stack : (s.setKeypad a).stack = s.stack := rfl
@[simp] theorem setKeypad_SP : (s.setKeypad a).SP = s.SP := rfl
@[simp] theorem setKeypad_DT : (s.setKeypad a).DT = s.DT := rfl
@[simp] theorem setKeypad_ST : (s.setKeypad a).ST = s.ST := rfl
@[simp] theorem setKeypad_display : (s.setKeypad a).display = s.display := rfl
@[simp] theorem setKeypad_redrawRequested : (s.setKeypad a).redrawRequested = s.redrawRequested := rfl
@[simp] theorem setKeypad_keypad : (s.setKeypad a).keypad = a := rfl
@[simp] theorem setKeypad_currentOpcode : (s.setKeypad a).currentOpcode = s.currentOpcode := rfl
@[simp] theorem setKeypad_runStatus : (s.setKeypad a).runStatus = s.runStatus := rfl
@[simp] theorem setKeypad_rndPort : (s.setKeypad a).rndPort = s.rndPort := rfl
@[simp] theorem setKeypad_rndCount : (s.setKeypad a).rndCount = s.rndCount := rfl
end setKeypad

section setOpcode
variable (s : State) (a : Word)
@[simp] theorem setOpcode_memory : (s.setOpcode a).memory = s.memory := rfl
@[simp] theorem setOpcode_V : (s.setOpcode a).V = s.V := rfl
@[simp] theorem setOpcode_I : (s.setOpcode a).I = s.I := rfl
@[simp] theorem setOpcode_PC : (s.setOpcode a).PC = s.PC := rfl
@[simp] theorem setOpcode_stack : (s.setOpcode a).stack = s.stack := rfl
@[simp] theorem setOpcode_SP : (s.setOpcode a).SP = s.SP := rfl
@[simp] theorem setOpcode_DT : (s.setOpcode a).DT = s.DT := rfl
@[simp] theorem setOpcode_ST : (s.setOpcode a).ST = s.ST := rfl
@[simp] theorem setOpcode_display : (s.setOpcode a).display = s.display := rfl
@[simp] theorem setOpcode_redrawRequested : (s.setOpcode a).redrawRequested = s.redrawRequested := rfl
@[simp] theorem setOpcode_keypad : (s.setOpcode a).keypad = s.keypad := rfl
@[simp] theorem setOpcode_currentOpcode : (s.setOpcode a).currentOpcode = a := rfl
@[simp] theorem setOpcode_runStatus : (s.setOpcode a).runStatus = s.runStatus := rfl
@[simp] theorem setOpcode_rndPort : (s.setOpcode a).rndPort = s.rndPort := rfl
@[simp] theorem setOpcode_rndCount : (s.setOpcode a).rndCount = s.rndCount := rfl
end setOpcode

section setRunStatus
variable (s : State) (a : RunStatus)
@[simp] theorem setRunStatus_memory : (s.setRunStatus a).memory = s.memory := rfl
@[simp] theorem setRunStatus_V : (s.setRunStatus a).V = s.V := rfl
@[simp] theorem setRunStatus_I : (s.setRunStatus a).I = s.I := rfl
@[simp] theorem setRunStatus_PC : (s.setRunStatus a).PC = s.PC := rfl
@[simp] theorem setRunStatus_stack : (s.setRunStatus a).stack = s.stack := rfl
@[simp] theorem setRunStatus_SP : (s.setRunStatus a).SP = s.SP := rfl
@[simp] theorem setRunStatus_DT : (s.setRunStatus a).DT = s.DT := rfl
@[simp] theorem setRunStatus_ST : (s.setRunStatus a).ST = s.ST := rfl
@[simp] theorem setRunStatus_display : (s.setRunStatus a).display = s.display := rfl
@[simp] theorem setRunStatus_redrawRequested : (s.setRunStatus a).redrawRequested = s.redrawRequested := rfl
@[simp] theorem setRunStatus_keypad : (s.setRunStatus a).keypad = s.keypad := rfl
@[simp] theorem setRunStatus_currentOpcode : (s.setRunStatus a).currentOpcode = s.currentOpcode := rfl
@[simp] theorem setRunStatus_runStatus : (s.setRunStatus a).runStatus = a := rfl
@[simp] theorem setRunStatus_rndPort : (s.setRunStatus a).rndPort = s.rndPort := rfl
@[simp] theorem setRunStatus_rndCount : (s.setRunStatus a).rndCount = s.rndCount := rfl
end setRunStatus

section setRndPort
variable (s : State) (a : Option Byte)
@[simp] theorem setRndPort_memory : (s.setRndPort a).memory = s.memory := rfl
@[simp] theorem setRndPort_V : (s.setRndPort a).V = s.V := rfl
@[simp] theorem setRndPort_I : (s.setRndPort a).I = s.I := rfl
@[simp] theorem setRndPort_PC : (s.setRndPort a).PC = s.PC := rfl
@[simp] theorem setRndPort_stack : (s.setRndPort a).stack = s.stack := rfl
@[simp] theorem setRndPort_SP : (s.setRndPort a).SP = s.SP := rfl
@[simp] theorem setRndPort_DT : (s.setRndPort a).DT = s.DT := rfl
@[simp] theorem setRndPort_ST : (s.setRndPort a).ST = s.ST := rfl
@[simp] theorem setRndPort_display : (s.setRndPort a).display = s.display := rfl
@[simp] theorem setRndPort_redrawRequested : (s.setRndPort a).redrawRequested = s.redrawRequested := rfl
@[simp] theorem setRndPort_keypad : (s.setRndPort a).keypad = s.keypad := rfl
@[simp] theorem setRndPort_currentOpcode : (s.setRndPort a).currentOpcode = s.currentOpcode := rfl
@[simp] theorem setRndPort_runStatus : (s.setRndPort a).runStatus = s.runStatus := rfl
@[simp] theorem setRndPort_rndPort : (s.setRndPort a).rndPort = a := rfl
@[simp] theorem setRndPort_rndCount : (s.setRndPort a).rndCount = s.rndCount := rfl
end setRndPort

section setRndCount
variable (s : State) (a : Nat)
@[simp] theorem setRndCount_memory : (s.setRndCount a).memory = s.memory := rfl
@[simp] theorem setRndCount_V : (s.setRndCount a).V = s.V := rfl
@[simp] theorem setRndCount_I : (s.setRndCount a).I = s.I := rfl
@[simp] theorem setRndCount_PC : (s.setRndCount a).PC = s.PC := rfl
@[simp] theorem setRndCount_stack : (s.setRndCount a).stack = s.stack := rfl
@[simp] theorem setRndCount_SP : (s.setRndCount a).SP = s.SP := rfl
@[simp] theorem setRndCount_DT : (s.setRndCount a).DT = s.DT := rfl
@[simp] theorem setRndCount_ST : (s.setRndCount a).ST = s.ST := rfl
@[simp] theorem setRndCount_display : (s.setRndCount a).display = s.display := rfl
@[simp] theorem setRndCount_redrawRequested : (s.setRndCount a).redrawRequested = s.redrawRequested := rfl
@[simp] theorem setRndCount_keypad : (s.setRndCount a).keypad = s.keypad := rfl
@[simp] theorem setRndCount_currentOpcode : (s.setRndCount a).currentOpcode = s.currentOpcode := rfl
@[simp] theorem setRndCount_runStatus : (s.setRndCount a).runStatus = s.runStatus := rfl
@[simp] theorem setRndCount_rndPort : (s.setRndCount a).rndPort = s.rndPort := rfl
@[simp] theorem setRndCount_rndCount : (s.setRndCount a).rndCount = a := rfl
end setRndCount

section readers
variable (s : State)
@[simp] theorem readV_setMemory (a : Memory) (x : Reg) : (s.setMemory a).readV x = s.readV x := rfl
@[simp] theorem FB_setMemory (a : Memory) (x : Fin 64) (y : Fin 32) : (s.setMemory a).FB x y = s.FB x y := rfl
@[simp] theorem memRead_setV (a : Vector Byte 16) (n : Nat) : (s.setV a).memRead n = s.memRead n := rfl
@[simp] theorem FB_setV (a : Vector Byte 16) (x : Fin 64) (y : Fin 32) : (s.setV a).FB x y = s.FB x y := rfl
@[simp] theorem readV_setI (a : Word) (x : Reg) : (s.setI a).readV x = s.readV x := rfl
@[simp] theorem memRead_setI (a : Word) (n : Nat) : (s.setI a).memRead n = s.memRead n := rfl
@[simp] theorem FB_setI (a : Word) (x : Fin 64) (y : Fin 32) : (s.setI a).FB x y = s.FB x y := rfl
@[simp] theorem readV_setPC (a : Word) (x : Reg) : (s.setPC a).readV x = s.readV x := rfl
@[simp] theorem memRead_setPC (a : Word) (n : Nat) : (s.setPC a).memRead n = s.memRead n := rfl
@[simp] theorem FB_setPC (a : Word) (x : Fin 64) (y : Fin 32) : (s.setPC a).FB x y = s.FB x y := rfl
@[simp] theorem readV_setStack (a : Vector Word 16) (x : Reg) : (s.setStack a).readV x = s.readV x := rfl
@[simp] theorem memRead_setStack (a : Vector Word 16) (n : Nat) : (s.setStack a).memRead n = s.memRead n := rfl
@[simp] theorem FB_setStack (a : Vector Word 16) (x : Fin 64) (y : Fin 32) : (s.setStack a).FB x y = s.FB x y := rfl
@[simp] theorem readV_setSP (a : Fin 17) (x : Reg) : (s.setSP a).readV x = s.readV x := rfl
@[simp] theorem memRead_setSP (a : Fin 17) (n : Nat) : (s.setSP a).memRead n = s.memRead n := rfl
@[simp] theorem FB_setSP (a : Fin 17) (x : Fin 64) (y : Fin 32) : (s.setSP a).FB x y = s.FB x y := rfl
@[simp] theorem readV_setDT (a : Byte) (x : Reg) : (s.setDT a).readV x = s.readV x := rfl
@[simp] theorem memRead_setDT (a : Byte) (n : Nat) : (s.setDT a).memRead n = s.memRead n := rfl
@[simp] theorem FB_setDT (a : Byte) (x : Fin 64) (y : Fin 32) : (s.setDT a).FB x y = s.FB x y := rfl
@[simp] theorem readV_setST (a : Byte) (x : Reg) : (s.setST a).readV x = s.readV x := rfl
@[simp] theorem memRead_setST (a : Byte) (n : Nat) : (s.setST a).memRead n = s.memRead n := rfl
@[simp] theorem FB_setST (a : Byte) (x : Fin 64) (y : Fin 32) : (s.setST a).FB x y = s.FB x y := rfl
@[simp] theorem readV_setDisplay (a : Display) (x : Reg) : (s.setDisplay a).readV x = s.readV x := rfl
@[simp] theorem memRead_setDisplay (a : Display) (n : Nat) : (s.setDisplay a).memRead n = s.memRead n := rfl
@[simp] theorem readV_setRedraw (a : Bool) (x : Reg) : (s.setRedraw a).readV x = s.readV x := rfl
@[simp] theorem memRead_setRedraw (a : Bool) (n : Nat) : (s.setRedraw a).memRead n = s.memRead n := rfl
@[simp] theorem FB_setRedraw (a : Bool) (x : Fin 64) (y : Fin 32) : (s.setRedraw a).FB x y = s.FB x y := rfl
@[simp] theorem readV_setKeypad (a : BitVec 16) (x : Reg) : (s.setKeypad a).readV x = s.readV x := rfl
@[simp] theorem memRead_setKeypad (a : BitVec 16) (n : Nat) : (s.setKeypad a).memRead n = s.memRead n := rfl
@[simp] theorem FB_setKeypad (a : BitVec 16) (x : Fin 64) (y : Fin 32) : (s.setKeypad a).FB x y = s.FB x y := rfl
@[simp] theorem readV_setOpcode (a : Word) (x : Reg) : (s.setOpcode a).readV x = s.readV x := rfl
@[simp] theorem memRead_setOpcode (a : Word) (n : Nat) : (s.setOpcode a).memRead n = s.memRead n := rfl
@[simp] theorem FB_setOpcode (a : Word) (x : Fin 64) (y : Fin 32) : (s.setOpcode a).FB x y = s.FB x y := rfl
@[simp] theorem readV_setRunStatus (a : RunStatus) (x : Reg) : (s.setRunStatus a).readV x = s.readV x := rfl
@[simp] theorem memRead_setRunStatus (a : RunStatus) (n : Nat) : (s.setRunStatus a).memRead n = s.memRead n := rfl
@[simp] theorem FB_setRunStatus (a : RunStatus) (x : Fin 64) (y : Fin 32) : (s.setRunStatus a).FB x y = s.FB x y := rfl
@[simp] theorem readV_setRndPort (a : Option Byte) (x : Reg) : (s.setRndPort a).readV x = s.readV x := rfl
@[simp] theorem memRead_setRndPort (a : Option Byte) (n : Nat) : (s.setRndPort a).memRead n = s.memRead n := rfl
@[simp] theorem FB_setRndPort (a : Option Byte) (x : Fin 64) (y : Fin 32) : (s.setRndPort a).FB x y = s.FB x y := rfl
@[simp] theorem readV_setRndCount (a : Nat) (x : Reg) : (s.setRndCount a).readV x = s.readV x := rfl
@[simp] theorem memRead_setRndCount (a : Nat) (n : Nat) : (s.setRndCount a).memRead n = s.memRead n := rfl
@[simp] theorem FB_setRndCount (a : Nat) (x : Fin 64) (y : Fin 32) : (s.setRndCount a).FB x y = s.FB x y := rfl
end readers

end Sys2Proof.Machine.State
end

