-- ==== Sys2Proof/Laws/Memory.lean ====
section
/-! SUPPORT. Memory: what a read gives after a write, and that every operation keeps the canonical form. -/

namespace Sys2Proof.Machine

namespace Memory

theorem read_erase (m : Memory) (a b : Nat) :
    read (erase a m) b = if b = a then background a else read m b := by
  induction m with
  | nil => by_cases h : b = a <;> simp [erase, read, h]
  | cons c rest ih =>
    obtain ⟨k, w⟩ := c
    by_cases hk : a = k
    · subst hk
      rw [erase, if_pos rfl, ih]
      by_cases hb : b = a <;> simp [read, hb]
    · rw [erase, if_neg hk, read, ih, read]
      by_cases hb : b = a
      · subst hb; simp [hk]
      · simp [hb]

theorem read_insert (m : Memory) (a b : Nat) (v : Byte) (h : ∀ w, (a, w) ∉ m) :
    read (insert a v m) b = if b = a then v else read m b := by
  induction m with
  | nil => simp [insert, read]
  | cons c rest ih =>
    obtain ⟨k, w⟩ := c
    have hk : k ≠ a := fun e => h w (by simp [e])
    have hr : ∀ w, (a, w) ∉ rest := fun w' hw => h w' (by simp [hw])
    by_cases hlt : a < k
    · simp [insert, hlt, read]
    · rw [insert, if_neg hlt, read, ih hr, read]
      by_cases hb : b = k
      · simp [hb, hk]
      · simp [hb]

theorem not_mem_erase (m : Memory) (a : Nat) (w : Byte) : (a, w) ∉ erase a m := by
  induction m with
  | nil => simp [erase]
  | cons c rest ih =>
    obtain ⟨k, v⟩ := c
    by_cases hk : a = k
    · simpa [erase, hk] using hk ▸ ih
    · simp [erase, hk, ih]

/-- Read after write, on any list of cells (R66: "writes change only the cell written"). -/
theorem read_write (m : Memory) (a b : Nat) (v : Byte) :
    read (write m a v) b = if b = a then v else read m b := by
  unfold write
  split
  · next h => rw [read_erase, h]
  · rw [read_insert _ _ _ _ (not_mem_erase m a), read_erase]
    by_cases hb : b = a <;> simp [hb]

theorem read_write_same (m : Memory) (a : Nat) (v : Byte) : read (write m a v) a = v := by
  simp [read_write]

theorem read_write_other (m : Memory) (a b : Nat) (v : Byte) (h : b ≠ a) :
    read (write m a v) b = read m b := by
  simp [read_write, h]

theorem wfAbove_mono {lo lo' : Nat} {m : Memory} (h : lo' ≤ lo) (hw : wfAbove lo m = true) :
    wfAbove lo' m = true := by
  cases m with
  | nil => rfl
  | cons c rest =>
    obtain ⟨k, w⟩ := c
    simp only [wfAbove, Bool.and_eq_true, decide_eq_true_eq] at hw ⊢
    exact ⟨⟨⟨by omega, hw.1.1.2⟩, hw.1.2⟩, hw.2⟩

theorem wfAbove_erase (a : Nat) (m : Memory) : ∀ lo, wfAbove lo m = true → wfAbove lo (erase a m) = true := by
  induction m with
  | nil => intro lo _; rfl
  | cons c rest ih =>
    obtain ⟨k, w⟩ := c
    intro lo hw
    simp only [wfAbove, Bool.and_eq_true, decide_eq_true_eq] at hw
    by_cases hk : a = k
    · rw [erase, if_pos hk]
      exact wfAbove_mono (by omega) (ih _ hw.2)
    · rw [erase, if_neg hk]
      simp only [wfAbove, Bool.and_eq_true, decide_eq_true_eq]
      exact ⟨hw.1, ih _ hw.2⟩

theorem wfAbove_insert (a : Nat) (v : Byte) (ha : a < Config.memSize) (hv : v ≠ background a) (m : Memory) :
    ∀ lo, lo ≤ a → (∀ w, (a, w) ∉ m) → wfAbove lo m = true → wfAbove lo (insert a v m) = true := by
  induction m with
  | nil => intro lo hlo _ _; simp [insert, wfAbove, hlo, ha, hv]
  | cons c rest ih =>
    obtain ⟨k, w⟩ := c
    intro lo hlo hn hw
    have hk : k ≠ a := fun e => hn w (by simp [e])
    simp only [wfAbove, Bool.and_eq_true, decide_eq_true_eq] at hw
    by_cases hlt : a < k
    · simp only [insert, hlt, if_true, wfAbove, Bool.and_eq_true, decide_eq_true_eq]
      exact ⟨⟨⟨hlo, ha⟩, hv⟩, ⟨⟨by omega, hw.1.1.2⟩, hw.1.2⟩, hw.2⟩
    · simp only [insert, hlt, if_false, wfAbove, Bool.and_eq_true, decide_eq_true_eq]
      exact ⟨hw.1, ih _ (by omega) (fun w' hw' => hn w' (by simp [hw'])) hw.2⟩

/-- A write to an existing address keeps the canonical form. -/
theorem wf_write {m : Memory} (hm : m.wf = true) {a : Nat} (ha : a < Config.memSize) (v : Byte) :
    (write m a v).wf = true := by
  unfold write
  split
  · exact wfAbove_erase a m 0 hm
  · next h => exact wfAbove_insert a v ha h _ 0 (Nat.zero_le _) (not_mem_erase m a) (wfAbove_erase a m 0 hm)

/-- A canonical memory lists no address below `lo`. -/
theorem read_of_lt_wfAbove {lo a : Nat} {m : Memory} (hw : wfAbove lo m = true) (h : a < lo) :
    read m a = background a := by
  induction m generalizing lo with
  | nil => rfl
  | cons c rest ih =>
    obtain ⟨k, w⟩ := c
    simp only [wfAbove, Bool.and_eq_true, decide_eq_true_eq] at hw
    rw [read, if_neg (by omega)]
    exact ih hw.2 (by omega)

theorem wfAbove_ext {lo : Nat} {m n : Memory} (hm : wfAbove lo m = true) (hn : wfAbove lo n = true)
    (h : ∀ a, lo ≤ a → read m a = read n a) : m = n := by
  induction m generalizing lo n with
  | nil =>
    cases n with
    | nil => rfl
    | cons d rest =>
      obtain ⟨j, v⟩ := d
      simp only [wfAbove, Bool.and_eq_true, decide_eq_true_eq] at hn
      exact absurd (h j hn.1.1.1) (by simpa [read] using Ne.symm hn.1.2)
  | cons c rest ih =>
    obtain ⟨k, w⟩ := c
    simp only [wfAbove, Bool.and_eq_true, decide_eq_true_eq] at hm
    cases n with
    | nil => exact absurd (h k hm.1.1.1) (by simpa [read] using hm.1.2)
    | cons d rest' =>
      obtain ⟨j, v⟩ := d
      simp only [wfAbove, Bool.and_eq_true, decide_eq_true_eq] at hn
      rcases Nat.lt_trichotomy k j with hkj | rfl | hjk
      · have := h k hm.1.1.1
        rw [read, if_pos rfl, read, if_neg (by omega), read_of_lt_wfAbove hn.2 (by omega)] at this
        exact absurd this hm.1.2
      · have hw : w = v := by simpa [read] using h k hm.1.1.1
        subst hw
        congr 1
        refine ih hm.2 hn.2 (fun a ha => ?_)
        have := h a (by omega)
        rwa [read, if_neg (by omega), read, if_neg (by omega)] at this
      · have := h j hn.1.1.1
        rw [read, if_neg (by omega), read_of_lt_wfAbove hm.2 (by omega), read, if_pos rfl] at this
        exact absurd this.symm hn.1.2

/-- Equal memories are equal data: two canonical memories that read alike are one list. -/
theorem ext_of_wf {m n : Memory} (hm : m.wf = true) (hn : n.wf = true) (h : ∀ a, read m a = read n a) : m = n :=
  wfAbove_ext hm hn (fun a _ => h a)

theorem wf_nil : Memory.wf [] = true := rfl

end Memory

namespace State

@[simp] theorem memWrite_memory (s : State) (a : Nat) (v : Byte) :
    (s.memWrite a v).memory = s.memory.write a v := rfl

@[simp] theorem memRead_memWrite (s : State) (a b : Nat) (v : Byte) :
    (s.memWrite a v).memRead b = if b = a then v else s.memRead b :=
  Memory.read_write s.memory a b v

/-- Storing bytes changes memory alone. -/
theorem storeBytes_eq (s : State) (a : Nat) (bs : List Byte) :
    s.storeBytes a bs = s.setMemory (s.storeBytes a bs).memory := by
  induction bs generalizing s a with
  | nil => rfl
  | cons b rest ih => rw [storeBytes, ih]; rfl

/-- What a read gives after bytes are stored. -/
theorem memRead_storeBytes (s : State) (a : Nat) (bs : List Byte) (b : Nat) :
    (s.storeBytes a bs).memRead b =
      if h : a ≤ b ∧ b < a + bs.length then bs[b - a]'(by omega) else s.memRead b := by
  induction bs generalizing s a with
  | nil => simp [storeBytes]
  | cons v rest ih =>
    rw [storeBytes, ih, memRead_memWrite]
    by_cases h1 : b = a
    · subst h1
      simp
    · by_cases h2 : a + 1 ≤ b ∧ b < a + 1 + rest.length
      · have h3 : a ≤ b ∧ b < a + (v :: rest).length := by simp; omega
        rw [dif_pos h2, dif_pos h3]
        have : b - a = (b - (a + 1)) + 1 := by omega
        simp [this]
      · have h3 : ¬ (a ≤ b ∧ b < a + (v :: rest).length) := by simp; omega
        rw [dif_neg h2, dif_neg h3, if_neg h1]

theorem memRead_storeBytes_inside (s : State) (a : Nat) (bs : List Byte) (k : Nat) (h : k < bs.length) :
    (s.storeBytes a bs).memRead (a + k) = bs[k] := by
  rw [memRead_storeBytes, dif_pos (by omega)]
  simp

theorem memRead_storeBytes_outside (s : State) (a : Nat) (bs : List Byte) (b : Nat)
    (h : b < a ∨ a + bs.length ≤ b) : (s.storeBytes a bs).memRead b = s.memRead b := by
  rw [memRead_storeBytes, dif_neg (by omega)]

/-- Storing within 0x000..0xFFF keeps the canonical form. -/
theorem wf_storeBytes (s : State) (a : Nat) (bs : List Byte) (hs : s.memory.wf = true)
    (h : a + bs.length ≤ Config.memSize) : (s.storeBytes a bs).memory.wf = true := by
  induction bs generalizing s a with
  | nil => exact hs
  | cons v rest ih =>
    simp only [List.length_cons] at h
    exact ih _ _ (Memory.wf_write hs (by omega) v) (by omega)

@[simp] theorem loadBytes_length (s : State) (a n : Nat) : (s.loadBytes a n).length = n := by
  induction n generalizing a with
  | zero => rfl
  | succ n ih => simp [loadBytes, ih]

theorem loadBytes_getElem (s : State) (a n k : Nat) (h : k < (s.loadBytes a n).length) :
    (s.loadBytes a n)[k] = s.memRead (a + k) := by
  induction n generalizing a k with
  | zero => simp [loadBytes] at h
  | succ n ih =>
    cases k with
    | zero => simp [loadBytes]
    | succ k =>
      simp only [loadBytes, List.getElem_cons_succ]
      rw [ih]
      congr 1
      omega

section storeBytesFields
variable (s : State) (a : Nat) (bs : List Byte)
@[simp] theorem storeBytes_V : (s.storeBytes a bs).V = s.V := by rw [storeBytes_eq]; rfl
@[simp] theorem storeBytes_I : (s.storeBytes a bs).I = s.I := by rw [storeBytes_eq]; rfl
@[simp] theorem storeBytes_PC : (s.storeBytes a bs).PC = s.PC := by rw [storeBytes_eq]; rfl
@[simp] theorem storeBytes_stack : (s.storeBytes a bs).stack = s.stack := by rw [storeBytes_eq]; rfl
@[simp] theorem storeBytes_SP : (s.storeBytes a bs).SP = s.SP := by rw [storeBytes_eq]; rfl
@[simp] theorem storeBytes_DT : (s.storeBytes a bs).DT = s.DT := by rw [storeBytes_eq]; rfl
@[simp] theorem storeBytes_ST : (s.storeBytes a bs).ST = s.ST := by rw [storeBytes_eq]; rfl
@[simp] theorem storeBytes_display : (s.storeBytes a bs).display = s.display := by rw [storeBytes_eq]; rfl
@[simp] theorem storeBytes_redrawRequested : (s.storeBytes a bs).redrawRequested = s.redrawRequested := by rw [storeBytes_eq]; rfl
@[simp] theorem storeBytes_keypad : (s.storeBytes a bs).keypad = s.keypad := by rw [storeBytes_eq]; rfl
@[simp] theorem storeBytes_currentOpcode : (s.storeBytes a bs).currentOpcode = s.currentOpcode := by rw [storeBytes_eq]; rfl
@[simp] theorem storeBytes_runStatus : (s.storeBytes a bs).runStatus = s.runStatus := by rw [storeBytes_eq]; rfl
@[simp] theorem storeBytes_rndPort : (s.storeBytes a bs).rndPort = s.rndPort := by rw [storeBytes_eq]; rfl
@[simp] theorem storeBytes_rndCount : (s.storeBytes a bs).rndCount = s.rndCount := by rw [storeBytes_eq]; rfl
@[simp] theorem readV_storeBytes (x : Reg) : (s.storeBytes a bs).readV x = s.readV x := by rw [storeBytes_eq]; rfl
@[simp] theorem FB_storeBytes (x : Fin 64) (y : Fin 32) : (s.storeBytes a bs).FB x y = s.FB x y := by
  rw [storeBytes_eq]; rfl
end storeBytesFields

end State

end Sys2Proof.Machine
end

