-- ==== Sys2Proof/Laws/Ops.lean ====
section
/-! SUPPORT. Registers, the call stack, bounds, operands and flags: what each shared operation does. -/

namespace Sys2Proof.Machine

/-! ## Bounds -/

theorem inBounds_iff (a n : Nat) : inBounds a n = true ↔ n = 0 ∨ a + n ≤ Config.memSize := by
  simp only [inBounds, Config.memSize, Bool.or_eq_true, decide_eq_true_eq]; omega

theorem inBounds_two (a : Nat) : inBounds a 2 = true ↔ a + 1 ≤ 0xFFF := by
  simp [inBounds]

theorem inBounds_false (a n : Nat) : inBounds a n = false ↔ 0 < n ∧ 0xFFF < a + n - 1 := by
  simp [inBounds]; omega

/-! ## Registers -/

namespace State

@[simp] theorem readV_writeV (s : State) (x y : Reg) (v : Byte) :
    (s.writeV x v).readV y = if y = x then v else s.readV y := by
  unfold readV writeV
  by_cases h : y = x
  · subst h; simp
  · have : x.val ≠ y.val := fun e => h (Fin.ext e.symm)
    simp [h, this]

theorem writeV_eq (s : State) (x : Reg) (v : Byte) : s.writeV x v = s.setV (s.writeV x v).V := rfl

/-- Registers that read alike are the same data. -/
theorem V_ext {s t : State} (h : ∀ x, s.readV x = t.readV x) : s.V = t.V := by
  apply Vector.ext
  intro i hi
  exact h ⟨i, hi⟩

/-- A register write changes no other field. -/
theorem writeV_memory (s : State) (x : Reg) (v : Byte) : (s.writeV x v).memory = s.memory := rfl

theorem readV_writeWithFlag (s : State) (x y : Reg) (v : Byte) (f : Bool) :
    (s.writeWithFlag x v f).readV y = if y = VF then flagByte f else if y = x then v else s.readV y := by
  simp [writeWithFlag]

/-! ## Register lists -/

theorem mem_regsUpTo (x k : Reg) : k ∈ regsUpTo x ↔ k ≤ x := by
  revert x k; decide

theorem regsUpTo_length (x : Reg) : (regsUpTo x).length = x.val + 1 := by
  revert x; decide

theorem regsUpTo_getElem (x : Reg) (k : Nat) (h : k < (regsUpTo x).length) : ((regsUpTo x)[k]).val = k := by
  revert x k
  decide

theorem loadRegs_eq (s : State) (a : Nat) (l : List Reg) : s.loadRegs a l = s.setV (s.loadRegs a l).V := by
  induction l generalizing s with
  | nil => rfl
  | cons k rest ih => rw [loadRegs, ih]; rfl

theorem memRead_writeV (s : State) (x : Reg) (v : Byte) (a : Nat) : (s.writeV x v).memRead a = s.memRead a := rfl

/-- Every listed register takes its byte; the others keep their values. -/
theorem readV_loadRegs (s : State) (a : Nat) (l : List Reg) (k : Reg) :
    (s.loadRegs a l).readV k = if k ∈ l then s.memRead (a + k.val) else s.readV k := by
  induction l generalizing s with
  | nil => simp [loadRegs]
  | cons j rest ih =>
    rw [loadRegs, ih]
    by_cases h : k = j
    · subst h; simp [memRead_writeV]
    · simp [h, memRead_writeV]

@[simp] theorem blockOf_length (s : State) (x : Reg) : (s.blockOf x).length = x.val + 1 := by
  simp [blockOf, regsUpTo_length]

theorem blockOf_getElem (s : State) (x : Reg) (k : Nat) (h : k < (s.blockOf x).length) (hk : k < 16) :
    (s.blockOf x)[k] = s.readV ⟨k, hk⟩ := by
  simp only [blockOf, List.getElem_map]
  congr 1
  exact Fin.ext (regsUpTo_getElem x k _)

@[simp] theorem bcdDigits_length (v : Byte) : (bcdDigits v).length = 3 := rfl

/-! ## The keypad -/

/-- The lowest key is down and every key below it is up. -/
theorem lowestKey_some {s : State} {k : Reg} (h : s.lowestKey = some k) :
    s.keyDown k = true ∧ ∀ j < k, s.keyDown j = false := by
  revert h
  unfold lowestKey
  generalize s.keyDown = f
  intro h
  have hk : f k = true := List.find?_some h
  refine ⟨hk, fun j hj => ?_⟩
  rw [List.find?_eq_some_iff_append] at h
  obtain ⟨-, as, bs, heq, has⟩ := h
  have hi : allRegs[as.length]? = some k := by rw [heq]; simp
  have hlen : as.length = k.val := by
    have : ∀ (n : Nat) (k : Reg), allRegs[n]? = some k → n = k.val := by
      intro n
      by_cases hn : n < 16
      · revert n; decide
      · intro k hk
        rw [List.getElem?_eq_none (by simpa [allRegs] using hn)] at hk
        exact absurd hk (by simp)
    exact this _ _ hi
  have hjm : allRegs[j.val]? = some j := by clear hj; revert j; decide
  have : j ∈ as := by
    rw [heq, List.getElem?_append_left (by rw [hlen]; exact hj)] at hjm
    exact List.mem_of_getElem? hjm
  simpa using has j this

theorem mem_allRegs (k : Reg) : k ∈ allRegs := by revert k; decide

/-- There is no lowest key exactly when no key is down. -/
theorem lowestKey_none (s : State) : s.lowestKey = none ↔ ∀ k, s.keyDown k = false := by
  simp [lowestKey, List.find?_eq_none, mem_allRegs]

theorem keyDown_all_false (s : State) : (∀ k, s.keyDown k = false) ↔ s.keypad = 0#16 := by
  constructor
  · intro h
    apply BitVec.eq_of_getLsbD_eq
    intro i hi
    simpa [keyDown] using h ⟨i, hi⟩
  · intro h k
    simp [keyDown, h]

theorem keyOf_some {s : State} {x k : Reg} (h : s.keyOf x = some k) : k.val = (s.readV x).toNat := by
  unfold keyOf at h
  split at h
  · simp only [Option.some.injEq] at h; rw [← h]
  · simp at h

theorem keyOf_none {s : State} {x : Reg} (h : s.keyOf x = none) : 0xF < (s.readV x).toNat := by
  unfold keyOf at h
  split at h
  · simp at h
  · omega

/-! ## The call stack -/

/-- A push succeeds exactly below 16 entries, and writes one slot and SP. -/
theorem push_some {s t : State} {v : Word} (h : s.push v = some t) :
    ∃ h16 : s.SP.val < 16,
      t = (s.setStack (s.stack.set s.SP.val v)).setSP ⟨s.SP.val + 1, by omega⟩ := by
  unfold push at h
  split at h
  · next h16 => exact ⟨h16, by simpa using h.symm⟩
  · simp at h

theorem push_none {s : State} {v : Word} : s.push v = none ↔ s.SP.val = 16 := by
  unfold push
  split <;> simp <;> omega

/-- A pop succeeds exactly on a stack in use, and writes SP alone. -/
theorem pop_some {s t : State} {v : Word} (h : s.pop = some (v, t)) :
    ∃ _ : s.SP.val ≠ 0, v = s.stack[s.SP.val - 1]'(by omega) ∧ t = s.setSP ⟨s.SP.val - 1, by omega⟩ := by
  unfold pop at h
  split at h
  · simp at h
  · next h0 =>
    simp only [Option.some.injEq, Prod.mk.injEq] at h
    exact ⟨h0, h.1.symm, h.2.symm⟩

theorem pop_none {s : State} : s.pop = none ↔ s.SP.val = 0 := by
  unfold pop
  split <;> simp_all

/-! ## Fetch and faults -/

theorem fetchWord_some {s : State} {w : Word} (h : s.fetchWord = some w) :
    s.PC.toNat + 1 ≤ 0xFFF ∧ w = wordOfBytes (s.memRead s.PC.toNat) (s.memRead (s.PC.toNat + 1)) := by
  unfold fetchWord at h
  split at h
  · next hb => exact ⟨(inBounds_two _).1 hb, by simpa using h.symm⟩
  · simp at h

theorem fetchWord_none {s : State} : s.fetchWord = none ↔ 0xFFF < s.PC.toNat + 1 := by
  unfold fetchWord
  have := inBounds_two s.PC.toNat
  split <;> simp_all

theorem takeFault_eq (s : State) (c : FaultCause) (o : Option Word) :
    s.takeFault c o = s.setRunStatus (.halted { cause := c, pc := s.PC, opcode := o }) := rfl

section loadRegsFields
variable (s : State) (a : Nat) (l : List Reg)
@[simp] theorem loadRegs_memory : (s.loadRegs a l).memory = s.memory := by rw [loadRegs_eq]; rfl
@[simp] theorem loadRegs_I : (s.loadRegs a l).I = s.I := by rw [loadRegs_eq]; rfl
@[simp] theorem loadRegs_PC : (s.loadRegs a l).PC = s.PC := by rw [loadRegs_eq]; rfl
@[simp] theorem loadRegs_stack : (s.loadRegs a l).stack = s.stack := by rw [loadRegs_eq]; rfl
@[simp] theorem loadRegs_SP : (s.loadRegs a l).SP = s.SP := by rw [loadRegs_eq]; rfl
@[simp] theorem loadRegs_DT : (s.loadRegs a l).DT = s.DT := by rw [loadRegs_eq]; rfl
@[simp] theorem loadRegs_ST : (s.loadRegs a l).ST = s.ST := by rw [loadRegs_eq]; rfl
@[simp] theorem loadRegs_display : (s.loadRegs a l).display = s.display := by rw [loadRegs_eq]; rfl
@[simp] theorem loadRegs_redrawRequested : (s.loadRegs a l).redrawRequested = s.redrawRequested := by rw [loadRegs_eq]; rfl
@[simp] theorem loadRegs_keypad : (s.loadRegs a l).keypad = s.keypad := by rw [loadRegs_eq]; rfl
@[simp] theorem loadRegs_currentOpcode : (s.loadRegs a l).currentOpcode = s.currentOpcode := by rw [loadRegs_eq]; rfl
@[simp] theorem loadRegs_runStatus : (s.loadRegs a l).runStatus = s.runStatus := by rw [loadRegs_eq]; rfl
@[simp] theorem loadRegs_rndPort : (s.loadRegs a l).rndPort = s.rndPort := by rw [loadRegs_eq]; rfl
@[simp] theorem loadRegs_rndCount : (s.loadRegs a l).rndCount = s.rndCount := by rw [loadRegs_eq]; rfl
@[simp] theorem memRead_loadRegs (n : Nat) : (s.loadRegs a l).memRead n = s.memRead n := by rw [loadRegs_eq]; rfl
@[simp] theorem FB_loadRegs (x : Fin 64) (y : Fin 32) : (s.loadRegs a l).FB x y = s.FB x y := by
  rw [loadRegs_eq]; rfl
end loadRegsFields

section skipIfFields
variable (s : State) (c : Bool)
@[simp] theorem skipIf_memory : (s.skipIf c).memory = s.memory := by cases c <;> rfl
@[simp] theorem skipIf_V : (s.skipIf c).V = s.V := by cases c <;> rfl
@[simp] theorem skipIf_I : (s.skipIf c).I = s.I := by cases c <;> rfl
@[simp] theorem skipIf_stack : (s.skipIf c).stack = s.stack := by cases c <;> rfl
@[simp] theorem skipIf_SP : (s.skipIf c).SP = s.SP := by cases c <;> rfl
@[simp] theorem skipIf_DT : (s.skipIf c).DT = s.DT := by cases c <;> rfl
@[simp] theorem skipIf_ST : (s.skipIf c).ST = s.ST := by cases c <;> rfl
@[simp] theorem skipIf_display : (s.skipIf c).display = s.display := by cases c <;> rfl
@[simp] theorem skipIf_redrawRequested : (s.skipIf c).redrawRequested = s.redrawRequested := by cases c <;> rfl
@[simp] theorem skipIf_keypad : (s.skipIf c).keypad = s.keypad := by cases c <;> rfl
@[simp] theorem skipIf_currentOpcode : (s.skipIf c).currentOpcode = s.currentOpcode := by cases c <;> rfl
@[simp] theorem skipIf_runStatus : (s.skipIf c).runStatus = s.runStatus := by cases c <;> rfl
@[simp] theorem skipIf_rndPort : (s.skipIf c).rndPort = s.rndPort := by cases c <;> rfl
@[simp] theorem skipIf_rndCount : (s.skipIf c).rndCount = s.rndCount := by cases c <;> rfl
@[simp] theorem readV_skipIf (x : Reg) : (s.skipIf c).readV x = s.readV x := by cases c <;> rfl
@[simp] theorem memRead_skipIf (n : Nat) : (s.skipIf c).memRead n = s.memRead n := by cases c <;> rfl
@[simp] theorem FB_skipIf (x : Fin 64) (y : Fin 32) : (s.skipIf c).FB x y = s.FB x y := by cases c <;> rfl
theorem skipIf_PC : (s.skipIf c).PC = if c then s.PC + 4#16 else s.PC + 2#16 := by cases c <;> rfl
end skipIfFields

end State

end Sys2Proof.Machine
end

