-- ==== Sys2Proof/Laws/Sprite.lean ====
section
/-! SUPPORT. The framebuffer and the sprite loop of 40_display.md R101: which cells a draw inverts, and when it reports a
collision. The loop is sequential; the closed forms rest on R104's remark that no cell is touched twice. -/

namespace Sys2Proof.Machine

namespace Display

@[simp] theorem cell_clear (x : Fin 64) (y : Fin 32) : cell clear x y = false := by
  simp [cell, clear]

theorem cell_flip (d : Display) (x x' : Fin 64) (y y' : Fin 32) :
    cell (flip d x y) x' y' = (cell d x' y' ^^ (decide (x' = x) && decide (y' = y))) := by
  unfold cell flip
  by_cases h : y' = y
  · subst h; simp [Fin.ext_iff, eq_comm]
  · have : y.val ≠ y'.val := fun e => h (Fin.ext e.symm)
    simp [this, h]

/-- Displays that show the same cells are the same data. -/
theorem ext_of_cell {d e : Display} (h : ∀ x y, cell d x y = cell e x y) : d = e := by
  apply Vector.ext
  intro i hi
  apply BitVec.eq_of_getLsbD_eq
  intro j hj
  exact h ⟨j, hj⟩ ⟨i, hi⟩

end Display

namespace Canvas

/-- One bit-column inverts its target cell and nothing else. -/
theorem cell_drawBit (c : Canvas) (x0 y0 : Nat) (b : Byte) (col : Nat) (x : Fin 64) (y : Fin 32) :
    Display.cell (c.drawBit x0 y0 b col).display x y =
      (Display.cell c.display x y ^^
        (b.getLsbD (7 - col) && (decide (x = wrapX (x0 + col)) && decide (y = wrapY y0)))) := by
  unfold drawBit
  by_cases h : b.getLsbD (7 - col) = true
  · simp [h, plot, Display.cell_flip]
  · simp [h]

theorem collision_drawBit (c : Canvas) (x0 y0 : Nat) (b : Byte) (col : Nat) :
    (c.drawBit x0 y0 b col).collision =
      (c.collision || (b.getLsbD (7 - col) && Display.cell c.display (wrapX (x0 + col)) (wrapY y0))) := by
  unfold drawBit
  by_cases h : b.getLsbD (7 - col) = true
  · simp [h, plot]
  · simp [h]

/-- Does some listed column of a row at `y0` hit the cell? -/
def colsHit (x0 y0 : Nat) (b : Byte) (cols : List Nat) (x : Fin 64) (y : Fin 32) : Bool :=
  cols.any fun col => b.getLsbD (7 - col) && (decide (x = wrapX (x0 + col)) && decide (y = wrapY y0))

theorem cell_foldl (x0 y0 : Nat) (b : Byte) (x : Fin 64) (y : Fin 32) :
    ∀ (cols : List Nat) (c : Canvas), cols.Pairwise (fun i j => wrapX (x0 + i) ≠ wrapX (x0 + j)) →
      Display.cell (cols.foldl (fun c col => c.drawBit x0 y0 b col) c).display x y =
        (Display.cell c.display x y ^^ colsHit x0 y0 b cols x y) := by
  intro cols
  induction cols with
  | nil => intro c _; simp [colsHit]
  | cons i rest ih =>
    intro c hp
    rw [List.pairwise_cons] at hp
    rw [List.foldl_cons, ih _ hp.2, cell_drawBit]
    have hsplit : colsHit x0 y0 b (i :: rest) x y =
        ((b.getLsbD (7 - i) && (decide (x = wrapX (x0 + i)) && decide (y = wrapY y0))) ||
          colsHit x0 y0 b rest x y) := by simp [colsHit]
    rw [hsplit]
    by_cases hx : x = wrapX (x0 + i)
    · have hno : colsHit x0 y0 b rest x y = false := by
        simp only [colsHit, List.any_eq_false, Bool.and_eq_true, decide_eq_true_eq, not_and]
        intro j hj _ hxj
        exact absurd (hx.symm.trans hxj) (hp.1 j hj)
      simp [hno]
    · simp [hx]

theorem collision_foldl (x0 y0 : Nat) (b : Byte) :
    ∀ (cols : List Nat) (c : Canvas), cols.Pairwise (fun i j => wrapX (x0 + i) ≠ wrapX (x0 + j)) →
      (cols.foldl (fun c col => c.drawBit x0 y0 b col) c).collision =
        (c.collision || cols.any fun col =>
          b.getLsbD (7 - col) && Display.cell c.display (wrapX (x0 + col)) (wrapY y0)) := by
  intro cols
  induction cols with
  | nil => intro c _; simp
  | cons i rest ih =>
    intro c hp
    rw [List.pairwise_cons] at hp
    rw [List.foldl_cons, ih _ hp.2, collision_drawBit, List.any_cons, Bool.or_assoc]
    congr 2
    rw [Bool.eq_iff_iff, List.any_eq_true, List.any_eq_true]
    refine exists_congr fun j => and_congr_right fun hj => ?_
    rw [cell_drawBit]
    simp [(hp.1 j hj).symm]

/-- The eight columns of a row land on eight different columns of the display. -/
theorem cols_distinct (x0 : Nat) :
    [0, 1, 2, 3, 4, 5, 6, 7].Pairwise (fun i j => wrapX (x0 + i) ≠ wrapX (x0 + j)) := by
  simp [wrapX, Fin.ext_iff]
  omega

/-- Does a row at `y0` hit the cell? -/
def rowHits (x0 y0 : Nat) (b : Byte) (x : Fin 64) (y : Fin 32) : Bool :=
  colsHit x0 y0 b [0, 1, 2, 3, 4, 5, 6, 7] x y

theorem cell_drawRow (c : Canvas) (x0 y0 : Nat) (b : Byte) (x : Fin 64) (y : Fin 32) :
    Display.cell (c.drawRow x0 y0 b).display x y = (Display.cell c.display x y ^^ rowHits x0 y0 b x y) :=
  cell_foldl x0 y0 b x y _ c (cols_distinct x0)

theorem rowHits_iff (x0 y0 : Nat) (b : Byte) (x : Fin 64) (y : Fin 32) :
    rowHits x0 y0 b x y = true ↔
      y = wrapY y0 ∧ ∃ col, col < 8 ∧ x = wrapX (x0 + col) ∧ b.getLsbD (7 - col) = true := by
  simp only [rowHits, colsHit, List.any_eq_true, Bool.and_eq_true, decide_eq_true_eq]
  constructor
  · rintro ⟨col, hc, hb, hx, hy⟩
    refine ⟨hy, col, ?_, hx, hb⟩
    revert hc; simp; omega
  · rintro ⟨hy, col, hc, hx, hb⟩
    refine ⟨col, ?_, hb, hx, hy⟩
    simp; omega

theorem collision_drawRow (c : Canvas) (x0 y0 : Nat) (b : Byte) :
    (c.drawRow x0 y0 b).collision = true ↔
      c.collision = true ∨ ∃ x y, rowHits x0 y0 b x y = true ∧ Display.cell c.display x y = true := by
  unfold drawRow
  rw [collision_foldl x0 y0 b _ c (cols_distinct x0), Bool.or_eq_true]
  apply or_congr_right
  simp only [rowHits, colsHit, List.any_eq_true, Bool.and_eq_true, decide_eq_true_eq]
  constructor
  · rintro ⟨col, hc, hb, hcell⟩
    exact ⟨_, _, ⟨col, hc, hb, rfl, rfl⟩, hcell⟩
  · rintro ⟨x, y, ⟨col, hc, hb, rfl, rfl⟩, hcell⟩
    exact ⟨col, hc, hb, hcell⟩

/-- Does the sprite whose rows start at `y0` hit the cell? -/
def spriteHits (x0 y0 : Nat) : List Byte → Fin 64 → Fin 32 → Bool
  | [], _, _ => false
  | b :: rest, x, y => rowHits x0 y0 b x y || spriteHits x0 (y0 + 1) rest x y

theorem spriteHits_iff (x0 y0 : Nat) (bs : List Byte) (x : Fin 64) (y : Fin 32) :
    spriteHits x0 y0 bs x y = true ↔
      ∃ row, ∃ h : row < bs.length, ∃ col, col < 8 ∧ x = wrapX (x0 + col) ∧ y = wrapY (y0 + row) ∧
        bs[row].getLsbD (7 - col) = true := by
  induction bs generalizing y0 with
  | nil => simp [spriteHits]
  | cons b rest ih =>
    rw [spriteHits, Bool.or_eq_true, ih, rowHits_iff]
    constructor
    · rintro (⟨hy, col, hc, hx, hb⟩ | ⟨row, hr, col, hc, hx, hy, hb⟩)
      · exact ⟨0, by simp, col, hc, hx, by simpa using hy, by simpa using hb⟩
      · refine ⟨row + 1, by simpa using hr, col, hc, hx, ?_, by simpa using hb⟩
        rw [hy]; congr 1; omega
    · rintro ⟨row, hr, col, hc, hx, hy, hb⟩
      cases row with
      | zero => exact .inl ⟨by simpa using hy, col, hc, hx, by simpa using hb⟩
      | succ row =>
        refine .inr ⟨row, by simpa using hr, col, hc, hx, ?_, by simpa using hb⟩
        rw [hy]; congr 1; omega

theorem spriteHits_row {x0 y0 : Nat} {bs : List Byte} {x : Fin 64} {y : Fin 32}
    (h : spriteHits x0 (y0 + 1) bs x y = true) (hl : bs.length < 32) : y ≠ wrapY y0 := by
  obtain ⟨row, hr, col, -, -, hy, -⟩ := (spriteHits_iff _ _ _ _ _).1 h
  subst hy
  simp only [wrapY, ne_eq, Fin.mk.injEq]
  omega

/-- What a cell is after a draw (R102): inverted where the sprite hits it, unchanged elsewhere. -/
theorem cell_drawSprite (c : Canvas) (x0 y0 : Nat) (bs : List Byte) (hl : bs.length ≤ 32) (x : Fin 64) (y : Fin 32) :
    Display.cell (c.drawSprite x0 y0 bs).display x y =
      (Display.cell c.display x y ^^ spriteHits x0 y0 bs x y) := by
  induction bs generalizing c y0 with
  | nil => simp [drawSprite, spriteHits]
  | cons b rest ih =>
    simp only [List.length_cons] at hl
    rw [drawSprite, ih _ _ (by omega), cell_drawRow, spriteHits]
    by_cases h : spriteHits x0 (y0 + 1) rest x y = true
    · have : rowHits x0 y0 b x y = false := by
        by_contra hne
        rw [Bool.not_eq_false] at hne
        exact spriteHits_row h (by omega) ((rowHits_iff _ _ _ _ _).1 hne).1
      simp [this]
    · simp only [Bool.not_eq_true] at h
      simp [h]

/-- When a draw reports a collision (R103): some cell it hits was lit before it. -/
theorem collision_drawSprite (c : Canvas) (x0 y0 : Nat) (bs : List Byte) (hl : bs.length ≤ 32) :
    (c.drawSprite x0 y0 bs).collision = true ↔
      c.collision = true ∨ ∃ x y, spriteHits x0 y0 bs x y = true ∧ Display.cell c.display x y = true := by
  induction bs generalizing c y0 with
  | nil => simp [drawSprite, spriteHits]
  | cons b rest ih =>
    simp only [List.length_cons] at hl
    rw [drawSprite, ih _ _ (by omega), collision_drawRow, or_assoc]
    apply or_congr_right
    simp only [spriteHits, Bool.or_eq_true, or_and_right, exists_or]
    apply or_congr_right
    refine exists_congr fun x => exists_congr fun y => and_congr_right fun h => ?_
    rw [cell_drawRow]
    have : rowHits x0 y0 b x y = false := by
      by_contra hne
      rw [Bool.not_eq_false] at hne
      exact spriteHits_row h (by omega) ((rowHits_iff _ _ _ _ _).1 hne).1
    simp [this]

end Canvas

end Sys2Proof.Machine
end

