-- ==== Sys2Proof/Laws/Step.lean ====
section
/-! SUPPORT. What a step can do: execution always answers a next state, and a step is one of four cases. -/

namespace Sys2Proof.Machine

/-- Every instruction answers a next state in every state: a fault it raises is taken (log 1). -/
theorem exec_next (i : Instr) (s : State) : ∃ t, exec i s = .next t := by
  cases i <;> simp only [exec, execCls, execRet, execJp, execCall, execSeImm, execSneImm, execSeReg, execLdImm,
    execAddImm, execLdReg, execOr, execAnd, execXor, execAddReg, execSub, execShr, execSubn, execShl, execSneReg,
    execLdI, execRnd, execDrw, execSkp, execSknp, execLdVxDt, execLdVxK, execLdDtVx, execLdStVx, execAddI, execLdF,
    execLdB, execLdMemVx, execLdVxMem] <;> first | exact ⟨_, rfl⟩ | (split <;> exact ⟨_, rfl⟩)

theorem step_halted {s : State} {r : FaultRecord} (h : s.runStatus = .halted r) :
    step s = .fault (.halted r) := by
  simp [step, h]

theorem step_fetch_fault {s : State} (hr : s.runStatus = .running) (hf : s.fetchWord = none) :
    step s = .next s.raiseFetch := by
  simp [step, hr, hf]

theorem step_word {s : State} {w : Word} (hr : s.runStatus = .running) (hf : s.fetchWord = some w) :
    step s = s.runWord w := by
  simp [step, hr, hf]

theorem runWord_ok {s : State} {w : Word} {i : Instr} (h : decodeWord w = .ok i) :
    s.runWord w = exec i (s.setOpcode w) := by
  simp [State.runWord, h]

theorem runWord_error {s : State} {w : Word} {r : Reject} (h : decodeWord w = .error r) :
    s.runWord w = .next ((s.setOpcode w).raise .unknownOpcode) := by
  simp [State.runWord, h]

/-- What a step that has a next state did: the core was running, and the fetch was out of bounds, or the word is no
instruction, or the decoded instruction was executed. -/
theorem step_cases {s t : State} (h : step s = .next t) :
    s.runStatus = .running ∧
    ((s.fetchWord = none ∧ t = s.raiseFetch) ∨
     (∃ w, s.fetchWord = some w ∧ decodeWord w = .error (.unknownOpcode w) ∧
        t = (s.setOpcode w).raise .unknownOpcode) ∨
     (∃ w i, s.fetchWord = some w ∧ decodeWord w = .ok i ∧ exec i (s.setOpcode w) = .next t)) := by
  cases hr : s.runStatus with
  | halted r => rw [step_halted hr] at h; cases h
  | running =>
    refine ⟨rfl, ?_⟩
    cases hf : s.fetchWord with
    | none =>
      rw [step_fetch_fault hr hf] at h
      cases h
      exact .inl ⟨rfl, rfl⟩
    | some w =>
      rw [step_word hr hf] at h
      cases hd : decodeWord w with
      | error r =>
        rw [runWord_error hd] at h
        cases h
        exact .inr (.inl ⟨w, rfl, by rw [hd, decodeWord_error hd], rfl⟩)
      | ok i =>
        rw [runWord_ok hd] at h
        exact .inr (.inr ⟨w, i, rfl, hd, h⟩)

/-- A step stops only on a halted core, with the core's own fault. -/
theorem step_next_of_running {s : State} (hr : s.runStatus = .running) : ∃ t, step s = .next t := by
  cases hf : s.fetchWord with
  | none => exact ⟨_, step_fetch_fault hr hf⟩
  | some w =>
    rw [step_word hr hf]
    cases hd : decodeWord w with
    | error r => exact ⟨_, runWord_error hd⟩
    | ok i => rw [runWord_ok hd]; exact exec_next i _

end Sys2Proof.Machine
end

