-- ==== Sys2Proof/Laws/Exec.lean ====
section
/-! SUPPORT. The one fault each instruction can raise, and what every execution that raises none leaves unchanged. -/

namespace Sys2Proof.Machine

/-- The fault an instruction raises in a state, or none (60_exceptions.md R195). -/
def faultOf (s : State) : Instr → Option FaultCause
  | .ret => if s.SP.val = 0 then some (.stackUnderflow s.SP.val) else none
  | .call _ => if s.SP.val = 16 then some (.stackOverflow s.SP.val) else none
  | .drw _ _ n => if s.dataOk n then none else some (.outOfBounds .data s.addrI n)
  | .ldB _ => if s.dataOk 3 then none else some (.outOfBounds .data s.addrI 3)
  | .ldMemVx x => if s.dataOk (x.val + 1) then none else some (.outOfBounds .data s.addrI (x.val + 1))
  | .ldVxMem x => if s.dataOk (x.val + 1) then none else some (.outOfBounds .data s.addrI (x.val + 1))
  | .skp x => if 0xF < (s.readV x).toNat then some (.outOfBounds .keypad (s.readV x).toNat 1) else none
  | .sknp x => if 0xF < (s.readV x).toNat then some (.outOfBounds .keypad (s.readV x).toNat 1) else none
  | _ => none

theorem keyOf_of_le {s : State} {x : Reg} (h : ¬ 0xF < (s.readV x).toNat) :
    s.keyOf x = some ⟨(s.readV x).toNat, by omega⟩ := by
  unfold State.keyOf
  rw [dif_pos (by omega)]

theorem keyOf_of_gt {s : State} {x : Reg} (h : 0xF < (s.readV x).toNat) : s.keyOf x = none := by
  unfold State.keyOf
  rw [dif_neg (by omega)]

/-- The fault is taken, and nothing else happens (R198). -/
theorem exec_of_fault {i : Instr} {s : State} {c : FaultCause} (h : faultOf s i = some c) :
    exec i s = .next (s.raise c) := by
  cases i <;> simp only [faultOf, reduceCtorEq] at h
  case ret =>
    split at h
    · next h0 => cases h; simp [exec, execRet, State.pop_none.2 h0]
    · cases h
  case call =>
    split at h
    · next h0 => cases h; simp [exec, execCall, State.push_none.2 h0]
    · cases h
  case skp x =>
    split at h
    · next hk => cases h; simp [exec, execSkp, keyOf_of_gt hk, State.raiseKey]
    · cases h
  case sknp x =>
    split at h
    · next hk => cases h; simp [exec, execSknp, keyOf_of_gt hk, State.raiseKey]
    · cases h
  all_goals
    split at h
    · cases h
    · next hd => cases h; simp [exec, execDrw, execLdB, execLdMemVx, execLdVxMem, hd, State.raiseData]

/-- An execution that raises no fault leaves the run status, the opcode latch, the keypad and the random port. -/
theorem exec_of_no_fault {i : Instr} {s t : State} (h : faultOf s i = none) (hx : exec i s = .next t) :
    t.runStatus = s.runStatus ∧ t.currentOpcode = s.currentOpcode ∧ t.keypad = s.keypad ∧ t.rndPort = s.rndPort := by
  cases i
  case ret =>
    cases hp : s.pop with
    | none => simp [faultOf, State.pop_none.1 hp] at h
    | some p =>
      obtain ⟨a, u⟩ := p
      obtain ⟨_, _, rfl⟩ := State.pop_some hp
      simp only [exec, execRet, hp] at hx
      cases hx
      exact ⟨rfl, rfl, rfl, rfl⟩
  case call =>
    cases hp : s.push s.PC with
    | none => simp [faultOf, State.push_none.1 hp] at h
    | some u =>
      obtain ⟨_, rfl⟩ := State.push_some hp
      simp only [exec, execCall, hp] at hx
      cases hx
      exact ⟨rfl, rfl, rfl, rfl⟩
  case skp x =>
    have hk : ¬ 0xF < (s.readV x).toNat := by intro hk; simp [faultOf, hk] at h
    simp only [exec, execSkp, keyOf_of_le hk] at hx
    cases hx
    simp
  case sknp x =>
    have hk : ¬ 0xF < (s.readV x).toNat := by intro hk; simp [faultOf, hk] at h
    simp only [exec, execSknp, keyOf_of_le hk] at hx
    cases hx
    simp
  case ldVxK x =>
    simp only [exec, execLdVxK] at hx
    split at hx <;> cases hx <;> exact ⟨rfl, rfl, rfl, rfl⟩
  case drw x y n =>
    have hd : s.dataOk n = true := by simpa [faultOf] using h
    simp only [exec, execDrw, hd] at hx
    cases hx
    exact ⟨rfl, rfl, rfl, rfl⟩
  case ldB x =>
    have hd : s.dataOk 3 = true := by simpa [faultOf] using h
    simp only [exec, execLdB, hd] at hx
    cases hx
    simp [State.advance]
  case ldMemVx x =>
    have hd : s.dataOk (x.val + 1) = true := by simpa [faultOf] using h
    simp only [exec, execLdMemVx, hd] at hx
    cases hx
    simp [State.advance]
  case ldVxMem x =>
    have hd : s.dataOk (x.val + 1) = true := by simpa [faultOf] using h
    simp only [exec, execLdVxMem, hd] at hx
    cases hx
    simp [State.advance]
  all_goals
    simp only [exec, execCls, execJp, execSeImm, execSneImm, execSeReg, execLdImm, execAddImm, execLdReg, execOr, execAnd,
      execXor, execAddReg, execSub, execShr, execSubn, execShl, execSneReg, execLdI, execRnd, execLdVxDt, execLdDtVx,
      execLdStVx, execAddI, execLdF] at hx
    cases hx
    simp [State.advance, State.writeV, State.writeWithFlag, State.countDraw]

/-- A step has one of four ends: it completes or is blocked, or takes the fault of the fetch, of decode, or of the
instruction; no other (R199). -/
theorem step_ends {s t : State} (h : step s = .next t) :
    (s.fetchWord = none ∧ t = s.raiseFetch) ∨
    (∃ w, s.fetchWord = some w ∧ decodeWord w = .error (.unknownOpcode w) ∧ t = (s.setOpcode w).raise .unknownOpcode) ∨
    (∃ w i c, s.fetchWord = some w ∧ decodeWord w = .ok i ∧ faultOf (s.setOpcode w) i = some c ∧
      t = (s.setOpcode w).raise c) ∨
    (∃ w i, s.fetchWord = some w ∧ decodeWord w = .ok i ∧ faultOf (s.setOpcode w) i = none ∧
      exec i (s.setOpcode w) = .next t ∧ t.runStatus = .running ∧ t.currentOpcode = w) := by
  obtain ⟨hr, h | h | ⟨w, i, hf, hd, hx⟩⟩ := step_cases h
  · exact .inl h
  · exact .inr (.inl h)
  · cases hc : faultOf (s.setOpcode w) i with
    | some c =>
      rw [exec_of_fault hc] at hx
      cases hx
      exact .inr (.inr (.inl ⟨w, i, c, hf, hd, hc, rfl⟩))
    | none =>
      obtain ⟨h1, h2, -, -⟩ := exec_of_no_fault hc hx
      exact .inr (.inr (.inr ⟨w, i, hf, hd, hc, hx, by rw [h1]; exact hr, h2⟩))

end Sys2Proof.Machine
end

