-- ==== Sys2Proof/Laws/PerInstr.lean ====
section
/-! SUPPORT. Statements about every instruction as syntax, one lemma per constructor. -/

namespace Sys2Proof.Laws.EncodeMatchesRow

/-- The instruction's row is a row of the opcode map, and the encoder's word matches it (30_encoding.md R83). -/
def Statement (i : Instr) : Prop := i.row ∈ opcodeTable ∧ i.row.accepts (encode i) = true

theorem cls : Statement (.cls) :=
  ⟨by simp [Instr.row, opcodeTable], by decide⟩

theorem ret : Statement (.ret) :=
  ⟨by simp [Instr.row, opcodeTable], by decide⟩

theorem jp (nnn : Word) : Statement (.jp nnn) :=
  ⟨by simp [Instr.row, opcodeTable], by simp [OpcodeRow.accepts, Instr.row, encode, and_F000]⟩

theorem call (nnn : Word) : Statement (.call nnn) :=
  ⟨by simp [Instr.row, opcodeTable], by simp [OpcodeRow.accepts, Instr.row, encode, and_F000]⟩

theorem seImm (x : Reg) (nn : Byte) : Statement (.seImm x nn) :=
  ⟨by simp [Instr.row, opcodeTable], by simp [OpcodeRow.accepts, Instr.row, encode, and_F000]⟩

theorem sneImm (x : Reg) (nn : Byte) : Statement (.sneImm x nn) :=
  ⟨by simp [Instr.row, opcodeTable], by simp [OpcodeRow.accepts, Instr.row, encode, and_F000]⟩

theorem seReg (x : Reg) (y : Reg) : Statement (.seReg x y) :=
  ⟨by simp [Instr.row, opcodeTable], by simp [OpcodeRow.accepts, Instr.row, encode, and_F00F]⟩

theorem ldImm (x : Reg) (nn : Byte) : Statement (.ldImm x nn) :=
  ⟨by simp [Instr.row, opcodeTable], by simp [OpcodeRow.accepts, Instr.row, encode, and_F000]⟩

theorem addImm (x : Reg) (nn : Byte) : Statement (.addImm x nn) :=
  ⟨by simp [Instr.row, opcodeTable], by simp [OpcodeRow.accepts, Instr.row, encode, and_F000]⟩

theorem ldReg (x : Reg) (y : Reg) : Statement (.ldReg x y) :=
  ⟨by simp [Instr.row, opcodeTable], by simp [OpcodeRow.accepts, Instr.row, encode, and_F00F]⟩

theorem or (x : Reg) (y : Reg) : Statement (.or x y) :=
  ⟨by simp [Instr.row, opcodeTable], by simp [OpcodeRow.accepts, Instr.row, encode, and_F00F]⟩

theorem and (x : Reg) (y : Reg) : Statement (.and x y) :=
  ⟨by simp [Instr.row, opcodeTable], by simp [OpcodeRow.accepts, Instr.row, encode, and_F00F]⟩

theorem xor (x : Reg) (y : Reg) : Statement (.xor x y) :=
  ⟨by simp [Instr.row, opcodeTable], by simp [OpcodeRow.accepts, Instr.row, encode, and_F00F]⟩

theorem addReg (x : Reg) (y : Reg) : Statement (.addReg x y) :=
  ⟨by simp [Instr.row, opcodeTable], by simp [OpcodeRow.accepts, Instr.row, encode, and_F00F]⟩

theorem sub (x : Reg) (y : Reg) : Statement (.sub x y) :=
  ⟨by simp [Instr.row, opcodeTable], by simp [OpcodeRow.accepts, Instr.row, encode, and_F00F]⟩

theorem shr (x : Reg) (y : Reg) : Statement (.shr x y) :=
  ⟨by simp [Instr.row, opcodeTable], by simp [OpcodeRow.accepts, Instr.row, encode, and_F00F]⟩

theorem subn (x : Reg) (y : Reg) : Statement (.subn x y) :=
  ⟨by simp [Instr.row, opcodeTable], by simp [OpcodeRow.accepts, Instr.row, encode, and_F00F]⟩

theorem shl (x : Reg) (y : Reg) : Statement (.shl x y) :=
  ⟨by simp [Instr.row, opcodeTable], by simp [OpcodeRow.accepts, Instr.row, encode, and_F00F]⟩

theorem sneReg (x : Reg) (y : Reg) : Statement (.sneReg x y) :=
  ⟨by simp [Instr.row, opcodeTable], by simp [OpcodeRow.accepts, Instr.row, encode, and_F00F]⟩

theorem ldI (nnn : Word) : Statement (.ldI nnn) :=
  ⟨by simp [Instr.row, opcodeTable], by simp [OpcodeRow.accepts, Instr.row, encode, and_F000]⟩

theorem rnd (x : Reg) (nn : Byte) : Statement (.rnd x nn) :=
  ⟨by simp [Instr.row, opcodeTable], by simp [OpcodeRow.accepts, Instr.row, encode, and_F000]⟩

theorem drw (x : Reg) (y : Reg) (n : Nat) : Statement (.drw x y n) :=
  ⟨by simp [Instr.row, opcodeTable], by simp [OpcodeRow.accepts, Instr.row, encode, and_F000]⟩

theorem skp (x : Reg) : Statement (.skp x) :=
  ⟨by simp [Instr.row, opcodeTable], by simp [OpcodeRow.accepts, Instr.row, encode, and_F0FF]⟩

theorem sknp (x : Reg) : Statement (.sknp x) :=
  ⟨by simp [Instr.row, opcodeTable], by simp [OpcodeRow.accepts, Instr.row, encode, and_F0FF]⟩

theorem ldVxDt (x : Reg) : Statement (.ldVxDt x) :=
  ⟨by simp [Instr.row, opcodeTable], by simp [OpcodeRow.accepts, Instr.row, encode, and_F0FF]⟩

theorem ldVxK (x : Reg) : Statement (.ldVxK x) :=
  ⟨by simp [Instr.row, opcodeTable], by simp [OpcodeRow.accepts, Instr.row, encode, and_F0FF]⟩

theorem ldDtVx (x : Reg) : Statement (.ldDtVx x) :=
  ⟨by simp [Instr.row, opcodeTable], by simp [OpcodeRow.accepts, Instr.row, encode, and_F0FF]⟩

theorem ldStVx (x : Reg) : Statement (.ldStVx x) :=
  ⟨by simp [Instr.row, opcodeTable], by simp [OpcodeRow.accepts, Instr.row, encode, and_F0FF]⟩

theorem addI (x : Reg) : Statement (.addI x) :=
  ⟨by simp [Instr.row, opcodeTable], by simp [OpcodeRow.accepts, Instr.row, encode, and_F0FF]⟩

theorem ldF (x : Reg) : Statement (.ldF x) :=
  ⟨by simp [Instr.row, opcodeTable], by simp [OpcodeRow.accepts, Instr.row, encode, and_F0FF]⟩

theorem ldB (x : Reg) : Statement (.ldB x) :=
  ⟨by simp [Instr.row, opcodeTable], by simp [OpcodeRow.accepts, Instr.row, encode, and_F0FF]⟩

theorem ldMemVx (x : Reg) : Statement (.ldMemVx x) :=
  ⟨by simp [Instr.row, opcodeTable], by simp [OpcodeRow.accepts, Instr.row, encode, and_F0FF]⟩

theorem ldVxMem (x : Reg) : Statement (.ldVxMem x) :=
  ⟨by simp [Instr.row, opcodeTable], by simp [OpcodeRow.accepts, Instr.row, encode, and_F0FF]⟩

end Sys2Proof.Laws.EncodeMatchesRow
end

