-- ==== Sys2Proof/Tests/Slice0.lean ====
section
/-! SUPPORT. The model's own tests: well-formedness refuses ill-formed terms, words written out from the spec decode as
the spec says, one step gives the spec's vector (95_test_vectors.md, by its id), and the hypotheses of each obligation
are met by a concrete state. Every expected value is the spec's. -/

namespace Sys2Proof.Tests

open Sys2Proof Sys2Proof.Machine Sys2Proof.Claims

/-! ## States -/

/-- The state after Initialize with some registers set. -/
def regs (l : List (Reg × Byte)) : State := l.foldl (fun s p => s.writeV p.1 p.2) State.reset

/-- The state after Initialize with I, some registers and the bytes at I set. -/
def atI (i : Word) (l : List (Reg × Byte)) (bs : List Byte) : State := ((regs l).setI i).storeBytes i.toNat bs

/-- A state with a word at PC. -/
def wordAtPC (s : State) (w : Nat) : State := s.withFetchWord 16 w

/-- One step on a word at PC, and what holds of the state after it. -/
def runs (s : State) (w : Nat) (p : State → Bool) : Bool :=
  match step (wordAtPC s w) with
  | .next t => p t
  | _ => false

/-- What holds of the state an instruction leaves. -/
def execs (i : Instr) (s : State) (p : State → Bool) : Bool :=
  match exec i s with
  | .next t => p t
  | _ => false

/-- The step halts with the cause, PC unchanged, the word latched. -/
def faults (s : State) (w : Nat) (c : FaultCause) : Bool :=
  runs s w fun t =>
    t.runStatus == .halted { cause := c, pc := s.PC, opcode := some (BitVec.ofNat 16 w) } && t.PC == s.PC &&
      t.currentOpcode == BitVec.ofNat 16 w

/-- A row of the display as a word: bit x is the cell (x, y). -/
def row (s : State) (y : Fin 32) : BitVec 64 := s.display[y.val]

theorem of_runs {s : State} {w : Nat} {p : State → Bool} (h : runs s w p = true) :
    ∃ t, step (wordAtPC s w) = .next t ∧ p t = true := by
  unfold runs at h
  split at h
  · next t ht => exact ⟨t, ht, h⟩
  · cases h

theorem of_execs {i : Instr} {s : State} {p : State → Bool} (h : execs i s p = true) :
    ∃ t, exec i s = .next t ∧ p t = true := by
  unfold execs at h
  split at h
  · next t ht => exact ⟨t, ht, h⟩
  · cases h

/-! ## Well-formedness refuses each ill-formed term (30_encoding.md R82) -/

theorem test_wf_jp : (Instr.jp 0x1000#16).wf = false ∧ (Instr.jp 0x0FFF#16).wf = true := by decide
theorem test_wf_call : (Instr.call 0x1000#16).wf = false ∧ (Instr.call 0x0FFF#16).wf = true := by decide
theorem test_wf_ldI : (Instr.ldI 0xF000#16).wf = false ∧ (Instr.ldI 0x0FFF#16).wf = true := by decide
theorem test_wf_drw : (Instr.drw 0 1 16).wf = false ∧ (Instr.drw 0 1 15).wf = true := by decide

/-! ## Decoding: a word for every constructor, from the patterns of 30_encoding.md R83 -/

theorem test_decode_display :
    decodeWord 0x00E0#16 = .ok .cls ∧ decodeWord 0xD232#16 = .ok (.drw 2 3 2) := by decide

theorem test_decode_control :
    decodeWord 0x00EE#16 = .ok .ret ∧ decodeWord 0x1228#16 = .ok (.jp 0x228#16) ∧
    decodeWord 0x220A#16 = .ok (.call 0x20A#16) ∧ decodeWord 0x3342#16 = .ok (.seImm 3 0x42#8) ∧
    decodeWord 0x4342#16 = .ok (.sneImm 3 0x42#8) ∧ decodeWord 0x5120#16 = .ok (.seReg 1 2) ∧
    decodeWord 0x9120#16 = .ok (.sneReg 1 2) := by decide

theorem test_decode_alu :
    decodeWord 0x6A9C#16 = .ok (.ldImm 10 0x9C#8) ∧ decodeWord 0x7C80#16 = .ok (.addImm 12 0x80#8) ∧
    decodeWord 0x8120#16 = .ok (.ldReg 1 2) ∧ decodeWord 0x8121#16 = .ok (.or 1 2) ∧
    decodeWord 0x8122#16 = .ok (.and 1 2) ∧ decodeWord 0x8123#16 = .ok (.xor 1 2) ∧
    decodeWord 0x8124#16 = .ok (.addReg 1 2) ∧ decodeWord 0x8AB5#16 = .ok (.sub 10 11) ∧
    decodeWord 0x8366#16 = .ok (.shr 3 6) ∧ decodeWord 0x8127#16 = .ok (.subn 1 2) ∧
    decodeWord 0x836E#16 = .ok (.shl 3 6) ∧ decodeWord 0xC10F#16 = .ok (.rnd 1 0x0F#8) := by decide

theorem test_decode_index :
    decodeWord 0xA2F0#16 = .ok (.ldI 0x2F0#16) ∧ decodeWord 0xF21E#16 = .ok (.addI 2) ∧
    decodeWord 0xF429#16 = .ok (.ldF 4) ∧ decodeWord 0xFA33#16 = .ok (.ldB 10) ∧
    decodeWord 0xF155#16 = .ok (.ldMemVx 1) ∧ decodeWord 0xF265#16 = .ok (.ldVxMem 2) := by decide

theorem test_decode_keys_timers :
    decodeWord 0xE59E#16 = .ok (.skp 5) ∧ decodeWord 0xE5A1#16 = .ok (.sknp 5) ∧
    decodeWord 0xF40A#16 = .ok (.ldVxK 4) ∧ decodeWord 0xF307#16 = .ok (.ldVxDt 3) ∧
    decodeWord 0xF015#16 = .ok (.ldDtVx 0) ∧ decodeWord 0xF118#16 = .ok (.ldStVx 1) := by decide

/-- X1 to X12. -/
theorem test_decode_unknown :
    [0x0000#16, 0x01E0#16, 0x00E1#16, 0x0123#16, 0x5121#16, 0x9121#16, 0x8128#16, 0x812F#16, 0xB123#16, 0xE19F#16,
      0xF100#16, 0xF130#16].all (fun w => decodeWord w == .error (.unknownOpcode w)) = true := by decide

/-- The bytes of `D232` are `D2 32` (R62), and a lone byte is no instruction (R80). -/
theorem test_decode_bytes :
    decode [0xD2#8, 0x32#8, 0xAA#8] = .ok (.drw 2 3 2, [0xAA#8]) ∧ decode [0xD2#8] = .error .tooShort := by decide

/-! ## Display -/

/-- D1. -/
theorem test_cls : runs ((State.reset.setDisplay (Display.flip Display.clear 3 4)).writeV 15 1#8) 0x00E0
    (fun t => t.display == Display.clear && t.redrawRequested && t.PC == 0x202#16 && t.readV 15 == 1#8) = true := by decide

/-- W5. -/
theorem test_drw_wraps : runs (atI 0x300#16 [(0, 60#8), (1, 31#8)] [0xFF#8, 0xFF#8]) 0xD012
    (fun t => row t 31 == 0xF00000000000000F#64 && row t 0 == 0xF00000000000000F#64 && row t 1 == 0#64 &&
      t.readV 15 == 0#8 && t.redrawRequested) = true := by decide

/-- D7. -/
theorem test_drw_collides : runs ((atI 0x300#16 [] [0xF0#8]).setDisplay (Display.flip Display.clear 2 0)) 0xD011
    (fun t => row t 0 == 0xB#64 && t.readV 15 == 1#8) = true := by decide

/-! ## Control flow -/

/-- J2. -/
theorem test_jp : runs State.reset 0x1201 (fun t => t.PC == 0x201#16) = true := by decide

/-- J6. -/
theorem test_call : runs ((State.reset.setPC 0x204#16).setSP 15) 0x2300
    (fun t => t.stack[15] == 0x204#16 && t.SP == 16 && t.PC == 0x300#16) = true := by decide

/-- J7. -/
theorem test_call_overflow : faults ((State.reset.setPC 0x204#16).setSP 16) 0x2300 (.stackOverflow 16) = true := by decide

/-- J8. -/
theorem test_ret : runs (((State.reset.setPC 0x20C#16).setStack (State.reset.stack.set 0 0x204#16)).setSP 1) 0x00EE
    (fun t => t.SP == 0 && t.PC == 0x206#16 && t.stack[0] == 0x204#16) = true := by decide

/-- J9. -/
theorem test_ret_underflow : faults State.reset 0x00EE (.stackUnderflow 0) = true := by decide

/-- J11, J12. -/
theorem test_seImm : (runs ((regs [(3, 0x42#8)]).setPC 0x210#16) 0x3342 (fun t => t.PC == 0x214#16) &&
    runs ((regs [(3, 0x41#8)]).setPC 0x210#16) 0x3342 (fun t => t.PC == 0x212#16)) = true := by decide

/-- J13, J14. -/
theorem test_sneImm : (runs ((regs [(3, 0x42#8)]).setPC 0x210#16) 0x4342 (fun t => t.PC == 0x212#16) &&
    runs ((regs [(3, 0x41#8)]).setPC 0x210#16) 0x4342 (fun t => t.PC == 0x214#16)) = true := by decide

/-- J15, J16. -/
theorem test_seReg : (runs (regs [(1, 7#8), (2, 7#8)]) 0x5120 (fun t => t.PC == 0x204#16) &&
    runs (regs [(1, 7#8), (2, 8#8)]) 0x5120 (fun t => t.PC == 0x202#16)) = true := by decide

/-- J18, J19. -/
theorem test_sneReg : (runs (regs [(1, 7#8), (2, 8#8)]) 0x9120 (fun t => t.PC == 0x204#16) &&
    runs (regs [(1, 7#8), (2, 8#8)]) 0x9110 (fun t => t.PC == 0x202#16)) = true := by decide

/-- J22: the largest PC. -/
theorem test_skip_end : runs (State.reset.setPC 0xFFE#16) 0x3000 (fun t => t.PC == 0x1002#16) = true := by decide

/-! ## Loads, logic and arithmetic -/

/-- A1, A2. -/
theorem test_ldImm : (runs State.reset 0x6A9C (fun t => t.readV 10 == 0x9C#8) &&
    runs State.reset 0x6F07 (fun t => t.readV 15 == 0x07#8)) = true := by decide

/-- A4. -/
theorem test_addImm : runs (regs [(0, 0xFF#8), (15, 0x55#8)]) 0x7001
    (fun t => t.readV 0 == 0#8 && t.readV 15 == 0x55#8 && t.PC == 0x202#16) = true := by decide

/-- A6. -/
theorem test_ldReg : runs (regs [(2, 0x33#8)]) 0x8120 (fun t => t.readV 1 == 0x33#8) = true := by decide

/-- A7. -/
theorem test_or : runs (regs [(1, 0x0F#8), (2, 0xF0#8), (15, 0x55#8)]) 0x8121
    (fun t => t.readV 1 == 0xFF#8 && t.readV 15 == 0x55#8) = true := by decide

/-- A8. -/
theorem test_and : runs (regs [(1, 0x3C#8), (2, 0x0F#8)]) 0x8122 (fun t => t.readV 1 == 0x0C#8) = true := by decide

/-- A9. -/
theorem test_xor : runs (regs [(1, 0xFF#8), (2, 0x0F#8)]) 0x8123 (fun t => t.readV 1 == 0xF0#8) = true := by decide

/-- A11, A12. -/
theorem test_addReg : (runs (regs [(1, 0xFF#8), (2, 0x01#8)]) 0x8124 (fun t => t.readV 1 == 0#8 && t.readV 15 == 1#8) &&
    runs (regs [(1, 0xFE#8), (2, 0x01#8)]) 0x8124 (fun t => t.readV 1 == 0xFF#8 && t.readV 15 == 0#8)) = true := by decide

/-- A14: X = F. -/
theorem test_addReg_flag_wins : runs (regs [(15, 0x10#8), (2, 0xF5#8)]) 0x8F24 (fun t => t.readV 15 == 1#8) = true := by
  decide

/-- A16, A17. -/
theorem test_sub : (runs (regs [(1, 1#8), (2, 2#8)]) 0x8125 (fun t => t.readV 1 == 0xFF#8 && t.readV 15 == 0#8) &&
    runs (regs [(1, 5#8), (2, 5#8)]) 0x8125 (fun t => t.readV 1 == 0#8 && t.readV 15 == 1#8)) = true := by decide

/-- A20, A21. -/
theorem test_shr : (runs (regs [(3, 5#8), (6, 0xFF#8)]) 0x8366 (fun t => t.readV 3 == 2#8 && t.readV 15 == 1#8) &&
    runs (regs [(3, 4#8)]) 0x8306 (fun t => t.readV 3 == 2#8 && t.readV 15 == 0#8)) = true := by decide

/-- A23, A24. -/
theorem test_subn : (runs (regs [(1, 5#8), (2, 3#8)]) 0x8127 (fun t => t.readV 1 == 0xFE#8 && t.readV 15 == 0#8) &&
    runs (regs [(1, 3#8), (2, 5#8)]) 0x8127 (fun t => t.readV 1 == 2#8 && t.readV 15 == 1#8)) = true := by decide

/-- A26, A27. -/
theorem test_shl : (runs (regs [(3, 0x81#8)]) 0x836E (fun t => t.readV 3 == 2#8 && t.readV 15 == 1#8) &&
    runs (regs [(3, 0x7F#8)]) 0x830E (fun t => t.readV 3 == 0xFE#8 && t.readV 15 == 0#8)) = true := by decide

/-- A29: with rnd = 0xB7. -/
theorem test_rnd : runs (State.reset.setRndPort (some 0xB7#8)) 0xC00F (fun t => t.readV 0 == 0x07#8) = true := by decide

/-! ## Index and memory -/

/-- M2. -/
theorem test_ldI : runs State.reset 0xAFFF (fun t => t.I == 0xFFF#16) = true := by decide

/-- M4, M5. -/
theorem test_addI : (runs ((regs [(0, 1#8), (15, 0x55#8)]).setI 0xFFF#16) 0xF01E
      (fun t => t.I == 0x1000#16 && t.readV 15 == 0x55#8) &&
    runs ((regs [(0, 1#8)]).setI 0xFFFF#16) 0xF01E (fun t => t.I == 0#16)) = true := by decide

/-- M6, M9. -/
theorem test_ldF : (runs (regs [(0, 0x0A#8)]) 0xF029 (fun t => t.I == 0x082#16) &&
    runs (regs [(0, 0xFF#8)]) 0xF029 (fun t => t.I == 0x54B#16)) = true := by decide

/-- M10. -/
theorem test_ldB : runs (atI 0x300#16 [(5, 156#8)] []) 0xF533
    (fun t => t.memRead 0x300 == 1#8 && t.memRead 0x301 == 5#8 && t.memRead 0x302 == 6#8 && t.I == 0x300#16) = true := by
  decide

/-- M15. -/
theorem test_ldB_fault : faults (State.reset.setI 0xFFE#16) 0xF033 (.outOfBounds .data 0xFFE 3) = true := by decide

/-- M16. -/
theorem test_ldMemVx : runs (atI 0x300#16 [(0, 1#8), (1, 2#8), (2, 9#8)] []) 0xF155
    (fun t => t.memRead 0x300 == 1#8 && t.memRead 0x301 == 2#8 && t.memRead 0x302 == 0#8 && t.I == 0x300#16) = true := by
  decide

/-- M18. -/
theorem test_ldMemVx_fault : faults (State.reset.setI 0xFF1#16) 0xFF55 (.outOfBounds .data 0xFF1 16) = true := by decide

/-- M20. -/
theorem test_ldVxMem : runs (atI 0x300#16 [(3, 9#8)] [1#8, 5#8, 6#8, 7#8]) 0xF265
    (fun t => t.readV 0 == 1#8 && t.readV 1 == 5#8 && t.readV 2 == 6#8 && t.readV 3 == 9#8 && t.I == 0x300#16) = true := by
  decide

/-- M22. -/
theorem test_ldVxMem_fault : faults (State.reset.setI 0xFFF#16) 0xF165 (.outOfBounds .data 0xFFF 2) = true := by decide

/-! ## Keypad -/

/-- K1, K2. -/
theorem test_skp : (runs ((regs [(5, 7#8)]).setKeypad 0x0080#16) 0xE59E (fun t => t.PC == 0x204#16) &&
    runs (regs [(5, 7#8)]) 0xE59E (fun t => t.PC == 0x202#16)) = true := by decide

/-- K6. -/
theorem test_skp_fault : faults (regs [(0, 0x10#8)]) 0xE09E (.outOfBounds .keypad 0x10 1) = true := by decide

/-- K3, K4. -/
theorem test_sknp : (runs ((regs [(5, 7#8)]).setKeypad 0x0080#16) 0xE5A1 (fun t => t.PC == 0x202#16) &&
    runs (regs [(5, 7#8)]) 0xE5A1 (fun t => t.PC == 0x204#16)) = true := by decide

/-- K8. -/
theorem test_ldVxK : runs (State.reset.setKeypad 0x0208#16) 0xF40A (fun t => t.readV 4 == 3#8 && t.PC == 0x202#16) = true := by
  decide

/-- K10: blocked. -/
theorem test_ldVxK_blocked : runs (regs [(4, 0x55#8)]) 0xF40A
    (fun t => t.readV 4 == 0x55#8 && t.PC == 0x200#16 && t.currentOpcode == 0xF40A#16 && t.outcome == .blocked) = true := by
  decide

/-! ## Timers -/

/-- T1. -/
theorem test_ldVxDt : runs (State.reset.setDT 0x2A#8) 0xF307 (fun t => t.readV 3 == 0x2A#8) = true := by decide

/-- T2. -/
theorem test_ldDtVx : runs (regs [(0, 60#8)]) 0xF015 (fun t => t.DT == 60#8 && t.ST == 0#8) = true := by decide

/-- T5. -/
theorem test_ldStVx : runs (regs [(1, 5#8)]) 0xF118 (fun t => t.ST == 5#8 && t.DT == 0#8 && t.soundActive) = true := by decide

/-- T8. -/
theorem test_tick : (tick ((State.reset.setDT 3#8).setST 1#8)).DT = 2#8 ∧
    (tick ((State.reset.setDT 3#8).setST 1#8)).ST = 0#8 := by decide

/-! ## Fetch, faults, the loader -/

/-- X14. -/
theorem test_fetch_fault : step (State.reset.setPC 0xFFF#16) =
    .next ((State.reset.setPC 0xFFF#16).setRunStatus
      (.halted { cause := .outOfBounds .fetch 0xFFF 2, pc := 0xFFF#16, opcode := none })) := by rfl

/-- X1. -/
theorem test_unknown_fault : faults State.reset 0x0000 .unknownOpcode = true := by decide

/-- X18: an odd PC. -/
theorem test_odd_pc : runs (State.reset.setPC 0x201#16) 0x6005 (fun t => t.readV 0 == 5#8 && t.PC == 0x203#16) = true := by
  decide

/-- The fault and step codes of R196 and R203. -/
theorem test_codes :
    FaultKind.code .outOfBounds = 1#3 ∧ FaultKind.code .stackOverflow = 2#3 ∧ FaultKind.code .stackUnderflow = 3#3 ∧
    FaultKind.code .unknownOpcode = 4#3 ∧ StepOutcome.status .completed = 0#2 ∧ StepOutcome.status .blocked = 1#2 ∧
    LoadResult.code .romTooLarge = 1#2 ∧ LoadResult.code .romReadFailure = 2#2 := by decide

/-- The reads of R44 at their widths: D7's lit cell, T6's sound, L8's byte, a core halted by X1. -/
theorem test_reads :
    readPort (State.reset.setDisplay (Display.flip Display.clear 2 0)) (.fb 2 0) = .bit 1#1 ∧
    readPort (State.reset.setST 1#8) .soundActive = .bit 1#1 ∧ readPort (State.reset.setST 1#8) .soundTimer = .byte 1#8 ∧
    readPort State.reset .halted = .bit 0#1 ∧ runs State.reset 0x0000 (fun t => readPort t .halted == .bit 1#1) = true ∧
    readPort State.reset (.dbgMemory 0x050) = .byte 0xF0#8 ∧ readPort State.reset .dbgPC = .word 0x200#16 := by decide

/-- L1. -/
theorem test_load : (loadProgram [0x60#8, 0x0A#8] true State.reset).2 = .ok ∧
    (loadProgram [0x60#8, 0x0A#8] true State.reset).1.memRead 0x200 = 0x60#8 ∧
    (loadProgram [0x60#8, 0x0A#8] true State.reset).1.memRead 0x201 = 0x0A#8 := by decide

/-- L8, with the default font (log 2). -/
theorem test_font : State.reset.loadBytes 0x050 5 = [0xF0#8, 0x90#8, 0x90#8, 0x90#8, 0xF0#8] ∧
    State.reset.memRead 0x09F = 0x80#8 ∧ State.reset.memRead 0x0A0 = 0#8 := by decide

/-- The canonical form: writing what an unlisted address reads as removes the cell. -/
theorem test_canonical : Memory.write (Memory.write [] 0x300 5#8) 0x300 0#8 = [] ∧
    (Memory.write (Memory.write [] 0x301 5#8) 0x300 7#8) = [(0x300, 7#8), (0x301, 5#8)] := by decide

/-! ## The hypotheses of the obligations are met -/

/-- A small predicate for a step or an execution that leaves the core running. -/
def isRunning (t : State) : Bool := t.runStatus == .running

theorem hyp_DecodeOfEncode : (Instr.drw 15 15 15).wf = true ∧ (Instr.jp 0xFFF#16).wf = true := by decide

theorem hyp_EncodeOfDecode : decodeWord 0xFF65#16 = .ok (.ldVxMem 15) := by decide

theorem hyp_ThirtyThree :
    (∃ r ∈ opcodeTable, 0x812E#16 &&& r.mask = r.pattern) ∧ decodeWord 0x812E#16 = .ok (.shl 1 2) :=
  ⟨⟨⟨0x800E, 0xF00F⟩, by decide, by decide⟩, by decide⟩

theorem hyp_AssemblyLine : (Instr.jp 0x228#16).assembly = (Instr.jp 0x228#16).assembly := rfl

/-- The last fetch in bounds, at 0xFFE (X13). -/
theorem hyp_StepRuns :
    (wordAtPC (State.reset.setPC 0xFFE#16) 0x1200).runStatus = .running ∧
    (wordAtPC (State.reset.setPC 0xFFE#16) 0x1200).PC.toNat + 1 ≤ 0xFFF ∧
    (0x1200#16).toNat = ((wordAtPC (State.reset.setPC 0xFFE#16) 0x1200).memRead 0xFFE).toNat * 256 +
      ((wordAtPC (State.reset.setPC 0xFFE#16) 0x1200).memRead 0xFFF).toNat ∧
    decodeWord 0x1200#16 = .ok (.jp 0x200#16) := by decide

/-- Both clauses: the first PC out of bounds, and the last in bounds. -/
theorem hyp_FailedFetchAndDecode :
    ((State.reset.setPC 0xFFF#16).runStatus = .running ∧ 0xFFF < (State.reset.setPC 0xFFF#16).PC.toNat + 1) ∧
    ((State.reset.setPC 0xFFE#16).PC.toNat + 1 ≤ 0xFFF ∧
      (0x0000#16).toNat = ((State.reset.setPC 0xFFE#16).memRead 0xFFE).toNat * 256 +
        ((State.reset.setPC 0xFFE#16).memRead 0xFFF).toNat ∧ UnknownWord (0x0000#16).toNat) :=
  ⟨by decide, by decide, by decide, .inl (by decide)⟩

/-- A step that halts. -/
theorem hyp_FaultingStep : ∃ t r, step State.reset = .next t ∧ t.runStatus = .halted r := ⟨_, _, rfl, rfl⟩

theorem hyp_cause_fetch :
    (∃ t, step (State.reset.setPC 0xFFF#16) = .next t) ∧
    CauseHolds (State.reset.setPC 0xFFF#16) (.outOfBounds .fetch 0xFFF 2) :=
  ⟨⟨_, rfl⟩, by decide, rfl, rfl⟩

theorem hyp_cause_data :
    (∃ t, step (wordAtPC (State.reset.setI 0xFFF#16) 0xD012) = .next t) ∧
    CauseHolds (wordAtPC (State.reset.setI 0xFFF#16) 0xD012) (.outOfBounds .data 0xFFF 2) :=
  ⟨⟨_, rfl⟩, .drw 0 1 2, ⟨0xD012#16, by decide, by decide⟩, by decide, rfl, by decide, by decide⟩

theorem hyp_cause_keypad :
    (∃ t, step (wordAtPC (regs [(0, 0x10#8)]) 0xE09E) = .next t) ∧
    CauseHolds (wordAtPC (regs [(0, 0x10#8)]) 0xE09E) (.outOfBounds .keypad 0x10 1) :=
  ⟨⟨_, rfl⟩, 0, .inl ⟨0xE09E#16, by decide, by decide⟩, by decide, by decide, rfl⟩

theorem hyp_cause_stack :
    CauseHolds (wordAtPC (State.reset.setSP 16) 0x2300) (.stackOverflow 16) ∧
    CauseHolds (wordAtPC State.reset 0x00EE) (.stackUnderflow 0) :=
  ⟨⟨⟨0x300#16, 0x2300#16, by decide, by decide⟩, by decide, rfl⟩,
   ⟨0x00EE#16, by decide, by decide⟩, by decide, rfl⟩

theorem hyp_cause_unknown : (∃ t, step State.reset = .next t) ∧ CauseHolds State.reset .unknownOpcode :=
  ⟨⟨_, rfl⟩, 0x0000#16, by decide, by decide⟩

/-- A fetch that succeeds and one that fails. -/
theorem hyp_FetchLatches :
    ((∃ t, step State.reset = .next t) ∧ State.reset.fetchWord = some 0x0000#16) ∧
    ((∃ t, step (State.reset.setPC 0xFFF#16) = .next t) ∧ (State.reset.setPC 0xFFF#16).fetchWord = none) :=
  ⟨⟨⟨_, rfl⟩, by decide⟩, ⟨_, rfl⟩, by decide⟩

/-- The three outcomes. -/
theorem hyp_StepOutcomes :
    State.reset.runStatus = .running ∧
    (transact (.step 0#8) (wordAtPC State.reset 0xF40A)).2 = .stepped .blocked ∧
    (transact (.step 0#8) (wordAtPC State.reset 0x6005)).2 = .stepped .completed ∧
    (transact (.step 0#8) State.reset).2 =
      .stepped (.fault { cause := .unknownOpcode, pc := 0x200#16, opcode := some 0x0000#16 }) := by decide

/-- One completed and one blocked execution. -/
theorem hyp_CompletedSteps :
    execs (.seImm 3 0#8) State.reset isRunning = true ∧ execs (.ldVxK 4) State.reset isRunning = true := by decide

theorem hyp_RandomByte :
    (∀ x nn, ¬ Executes State.reset (.rnd x nn)) ∧
    ((wordAtPC State.reset 0xC00F).runStatus = .running ∧ Executes (wordAtPC State.reset 0xC00F) (.rnd 0 0x0F#8)) := by
  refine ⟨?_, by decide, 0xC00F#16, by decide, by decide⟩
  rintro x nn ⟨w, hw, hd⟩
  have h0 : State.reset.fetchWord = some 0x0000#16 := by decide
  rw [h0] at hw
  cases hw
  cases hd

theorem inv_reset : State.reset.Inv := ⟨rfl, by decide, by decide, trivial⟩

theorem hyp_StepKeepsTheInvariant : State.reset.Inv ∧ ∃ t, step State.reset = .next t := ⟨inv_reset, _, rfl⟩

/-- A destination that changes, and VF changed by a flag writer. -/
theorem hyp_RegistersChange :
    (∃ t, exec (.ldImm 3 5#8) State.reset = .next t ∧ t.readV 3 ≠ State.reset.readV 3) ∧
    (∃ t, exec (.sub 0 1) State.reset = .next t ∧ t.readV VF ≠ State.reset.readV VF) :=
  ⟨⟨_, rfl, by decide⟩, _, rfl, by decide⟩

/-- The three clauses: a flag writer, a draw with and without a collision, and an instruction that is neither. -/
theorem hyp_FlagIsWritten :
    (FlagValue (regs [(1, 0xFF#8), (2, 1#8)]) (.addReg 1 2) = some true ∧
      execs (.addReg 1 2) (regs [(1, 0xFF#8), (2, 1#8)]) isRunning = true) ∧
    (Targets (atI 0x300#16 [] [0x80#8]) 0 1 1 0 0 ∧ execs (.drw 0 1 1) (atI 0x300#16 [] [0x80#8]) isRunning = true) ∧
    (¬ ∃ cx cy, Targets State.reset 0 1 0 cx cy ∧ State.reset.FB cx cy = true) ∧
    (FlagValue State.reset (.ldVxMem 14) = none ∧ VF ∉ destinations (.ldVxMem 14) ∧
      execs (.ldVxMem 14) State.reset isRunning = true) := by
  refine ⟨by decide, ⟨⟨0, 0, by decide, by decide, by decide, by decide, by decide⟩, by decide⟩, ?_, by decide⟩
  rintro ⟨cx, cy, ⟨row, col, h, -⟩, -⟩
  exact absurd h (Nat.not_lt_zero _)

/-- The last byte of a stored range changes, at the top of memory. -/
theorem hyp_MemoryChanges :
    (∃ t, exec (.ldB 5) ((regs [(5, 156#8)]).setI 0xFFD#16) = .next t ∧
      t.memRead 0xFFF ≠ ((regs [(5, 156#8)]).setI 0xFFD#16).memRead 0xFFF) ∧
    (∃ t, exec (.ldMemVx 15) ((regs [(15, 1#8)]).setI 0xFF0#16) = .next t ∧
      t.memRead 0xFFF ≠ ((regs [(15, 1#8)]).setI 0xFF0#16).memRead 0xFFF) :=
  ⟨⟨_, rfl, by decide⟩, _, rfl, by decide⟩

/-- An instruction off the display, one on it, and a redraw request that stands. -/
theorem hyp_DisplayChanges :
    (∃ t, exec (.jp 0x300#16) (State.reset.setRedraw true) = .next t) ∧
    execs .cls State.reset isRunning = true ∧ execs (.drw 0 1 0) (State.reset.setI 0xFFFF#16) isRunning = true :=
  ⟨⟨_, rfl⟩, by decide, by decide⟩

theorem hyp_Timers : (∃ t, exec (.ldDtVx 0) State.reset = .next t) ∧ ∃ t, exec (.ldStVx 0) State.reset = .next t :=
  ⟨⟨_, rfl⟩, _, rfl⟩

theorem hyp_KeypadAndStack :
    (∃ t, exec (.jp 0x300#16) State.reset = .next t) ∧ ∃ t, exec .ret (State.reset.setSP 1) = .next t :=
  ⟨⟨_, rfl⟩, _, rfl⟩

/-- No rows with I out of bounds, and 15 rows that end at 0xFFF; a cell the sprite targets and one it does not. -/
theorem hyp_Drw :
    (0 < 16 ∧ (0 = 0 ∨ (State.reset.setI 0xFFFF#16).I.toNat + 0 - 1 ≤ 0xFFF)) ∧
    (15 < 16 ∧ (15 = 0 ∨ (State.reset.setI 0xFF1#16).I.toNat + 15 - 1 ≤ 0xFFF)) ∧
    Targets (atI 0x300#16 [(0, 63#8), (1, 31#8)] [0x40#8]) 0 1 1 0 31 ∧
    ¬ Targets (atI 0x300#16 [(0, 63#8), (1, 31#8)] [0x40#8]) 0 1 1 63 31 := by
  refine ⟨by decide, by decide, ⟨0, 1, by decide, by decide, by decide, by decide, by decide⟩, ?_⟩
  rintro ⟨row, col, h1, h2, h4, -, h3⟩
  have : row = 0 := by omega
  subst this
  have e : (atI 0x300#16 [(0, 63#8), (1, 31#8)] [0x40#8]).memRead
    ((atI 0x300#16 [(0, 63#8), (1, 31#8)] [0x40#8]).I.toNat + 0) = 0x40#8 := by decide
  rw [e] at h3
  have hc : col = 1 := by revert h3; revert col; decide
  subst hc
  exact absurd h4 (by decide)

theorem hyp_DrawingTwice : ∃ t u,
    exec (.drw 0 1 1) (atI 0x300#16 [(0, 63#8), (1, 31#8)] [0xC0#8]) = .next t ∧
    t.readV 0 = (atI 0x300#16 [(0, 63#8), (1, 31#8)] [0xC0#8]).readV 0 ∧
    t.readV 1 = (atI 0x300#16 [(0, 63#8), (1, 31#8)] [0xC0#8]).readV 1 ∧ exec (.drw 0 1 1) t = .next u ∧
    u.readV VF = 1#8 :=
  ⟨_, _, rfl, by decide, by decide, rfl, by decide⟩

theorem hyp_Jp : (0xFFF#16).toNat < 4096 ∧ (0x200#16).toNat < 4096 ∧ 0x200#16 = State.reset.PC := by decide

/-- The last free slot, and the only slot in use. -/
theorem hyp_CallRet :
    (State.reset.setSP 15).SP.val < 16 ∧ (15 : Fin 16).val = (State.reset.setSP 15).SP.val ∧
    (15 : Fin 16).val + 1 = (State.reset.setSP 16).SP.val ∧ (0 : Fin 16).val + 1 = (State.reset.setSP 1).SP.val := by decide

theorem hyp_StackBounds : (State.reset.setSP 16).SP.val = 16 ∧ State.reset.SP.val = 0 := by decide

/-- W7. -/
theorem hyp_CallThenReturn :
    (wordAtPC (State.reset.storeBytes 0x300 [0x00#8, 0xEE#8]) 0x2300).runStatus = .running ∧
    Executes (wordAtPC (State.reset.storeBytes 0x300 [0x00#8, 0xEE#8]) 0x2300) (.call 0x300#16) ∧
    (0 : Fin 16).val = (wordAtPC (State.reset.storeBytes 0x300 [0x00#8, 0xEE#8]) 0x2300).SP.val ∧
    (0x300#16).toNat ≤ 0xFFE ∧
    (wordAtPC (State.reset.storeBytes 0x300 [0x00#8, 0xEE#8]) 0x2300).memRead 0x300 = 0x00#8 ∧
    (wordAtPC (State.reset.storeBytes 0x300 [0x00#8, 0xEE#8]) 0x2300).memRead 0x301 = 0xEE#8 :=
  ⟨by decide, ⟨0x2300#16, by decide, by decide⟩, by decide, by decide, by decide, by decide⟩

/-- Equal and unequal operands of the skips, and the digits 1 and 15 that are no skip. -/
theorem hyp_Skips :
    (regs [(3, 0x42#8)]).readV 3 = 0x42#8 ∧ (regs [(3, 0x42#8)]).readV 3 ≠ 0x41#8 ∧
    (regs [(3, 0x42#8)]).readV 3 ≠ (regs [(3, 0x42#8)]).readV 4 ∧
    (regs [(3, 0x42#8)]).readV 5 = (regs [(3, 0x42#8)]).readV 4 ∧ (0 < 1 ∧ 1 < 16) ∧ (0 < 15 ∧ 15 < 16) := by decide

/-- A destination other than VF (the flag writers). -/
theorem hyp_Alu : (1 : Reg) ≠ VF := by decide

theorem hyp_Rnd : (State.reset.setRndPort (some 0xB7#8)).rndPort = some 0xB7#8 ∧ (0x0F#8).getLsbD 4 = false := by decide

/-- The last ranges in bounds and the first out of bounds. -/
theorem hyp_Ranges :
    (State.reset.setI 0xFFD#16).I.toNat + 2 ≤ 0xFFF ∧ (State.reset.setI 0xFF0#16).I.toNat + (15 : Reg).val ≤ 0xFFF ∧
    (0 < dataBytes (.drw 0 1 2) ∧ 0xFFF < (State.reset.setI 0xFFF#16).I.toNat + dataBytes (.drw 0 1 2) - 1) ∧
    (0 < dataBytes (.ldB 0) ∧ 0xFFF < (State.reset.setI 0xFFE#16).I.toNat + dataBytes (.ldB 0) - 1) ∧
    (0 < dataBytes (.ldMemVx 15) ∧ 0xFFF < (State.reset.setI 0xFF1#16).I.toNat + dataBytes (.ldMemVx 15) - 1) ∧
    (0 < dataBytes (.ldVxMem 1) ∧ 0xFFF < (State.reset.setI 0xFFF#16).I.toNat + dataBytes (.ldVxMem 1) - 1) ∧
    (0 : Reg) ≤ 15 ∧ (14 : Reg) < 15 := by decide

/-- FX55 at 0x200 stores the word the next fetch at 0x202 reads. -/
theorem hyp_StoredBytes :
    (State.reset.setI 0x200#16).I.toNat + (3 : Reg).val ≤ 0xFFF ∧ (2 : Reg).val + 1 = (3 : Reg).val ∧
    ∃ t, exec (.ldMemVx 3) (State.reset.setI 0x200#16) = .next t ∧
      t.PC.toNat = (State.reset.setI 0x200#16).I.toNat + (2 : Reg).val :=
  ⟨by decide, by decide, _, rfl, by decide⟩

/-- Keys 15 and 16, up and down. -/
theorem hyp_Keys :
    ((regs [(5, 15#8)]).readV 5).toNat ≤ 0xF ∧ 0xF < ((regs [(5, 16#8)]).readV 5).toNat ∧
    ((regs [(5, 15#8)]).setKeypad 0x8000#16).keypad.getLsbD 15 = true ∧ State.reset.keypad.getLsbD 15 = false := by decide

/-- Key 3 is the lowest of 3 and 9, key 15 of itself alone. -/
theorem hyp_WaitForKey :
    ((State.reset.setKeypad 0x0208#16).keypad.getLsbD 3 = true ∧
      ∀ j : Reg, j < 3 → (State.reset.setKeypad 0x0208#16).keypad.getLsbD j.val = false) ∧
    ((State.reset.setKeypad 0x8000#16).keypad.getLsbD 15 = true ∧
      ∀ j : Reg, j < 15 → (State.reset.setKeypad 0x8000#16).keypad.getLsbD j.val = false) ∧
    State.reset.keypad = 0#16 := by decide

theorem hyp_WaitEnds : (wordAtPC State.reset 0xF40A).endWaiting ∧ 0x0840#16 ≠ 0#16 :=
  ⟨⟨by decide, by decide, 0xF40A#16, 4, by decide, by decide⟩, by decide⟩

/-- T5, T7, T6, and a timer that stays on. -/
theorem hyp_Sound :
    ((∃ t, exec (.ldStVx 1) (regs [(1, 5#8)]) = .next t) ∧ (regs [(1, 5#8)]).ST = 0#8 ∧
      (regs [(1, 5#8)]).readV 1 ≠ 0#8) ∧
    ((∃ t, exec (.ldStVx 0) (State.reset.setST 5#8) = .next t) ∧ (State.reset.setST 5#8).ST ≠ 0#8 ∧
      (State.reset.setST 5#8).readV 0 = 0#8) ∧
    (State.reset.setST 1#8).ST = 1#8 ∧ 1 < (State.reset.setST 2#8).ST.toNat ∧
    ∃ t, exec (.ldDtVx 0) (State.reset.setST 2#8) = .next t :=
  ⟨⟨⟨_, rfl⟩, by decide, by decide⟩, ⟨⟨_, rfl⟩, by decide, by decide⟩, by decide, by decide, _, rfl⟩

/-- A halted core, and a schedule without Initialize. -/
theorem hyp_Halted :
    (∃ t r, step State.reset = .next t ∧ t.runStatus = .halted r) ∧
    ∀ tr ∈ [Transaction.tick, .step 0#8, .loadProgram [0x12#8, 0x00#8] true], isInit tr = false :=
  ⟨⟨_, _, rfl, rfl⟩, by decide⟩

/-- The largest ROM and the first too large. -/
theorem hyp_LoadProgram :
    (List.replicate 3584 (0#8 : Byte)).length ≤ 3584 ∧ 3584 < (List.replicate 3585 (0#8 : Byte)).length := by
  rw [List.length_replicate, List.length_replicate]
  omega

theorem hyp_Initialize : ∃ t, (transact (.initCore (Vector.replicate 80 0xFF#8)) State.reset).1 = t := ⟨_, rfl⟩

/-- J4. -/
theorem hyp_SelfJump : (wordAtPC State.reset 0x1200).endSelfJump := ⟨by decide, by decide, by decide⟩

end Sys2Proof.Tests
end

/-! SUPPORT. The fields of a word written by its digits, what a skip leaves unchanged, and the register skips of
41_control_flow.md. -/

namespace Sys2Proof.Proofs

open Sys2Proof Sys2Proof.Machine Sys2Proof.Claims

/-! ## The fields of a word written by its digits (R81) -/

theorem val_fieldX (w : Word) : (fieldX w).val = w.toNat / 256 % 16 := by
  simp [fieldX, Nat.shiftRight_eq_div_pow]

theorem val_fieldY (w : Word) : (fieldY w).val = w.toNat / 16 % 16 := by
  simp [fieldY, Nat.shiftRight_eq_div_pow]

section XNN
variable (f : Nat) (x : Reg) (nn : Byte)

@[simp] theorem fieldF_wordOfXNN : fieldF (wordOfXNN f x.val nn.toNat) = BitVec.ofNat 4 f := by
  apply BitVec.eq_of_toNat_eq
  rw [toNat_fieldF, wordOfXNN, BitVec.toNat_ofNat, BitVec.toNat_ofNat]
  omega

@[simp] theorem fieldX_wordOfXNN : fieldX (wordOfXNN f x.val nn.toNat) = x := by
  apply Fin.ext
  rw [val_fieldX, wordOfXNN, BitVec.toNat_ofNat]
  omega

@[simp] theorem fieldNN_wordOfXNN : fieldNN (wordOfXNN f x.val nn.toNat) = nn := by
  apply BitVec.eq_of_toNat_eq
  rw [toNat_fieldNN, wordOfXNN, BitVec.toNat_ofNat]
  omega

end XNN

section XYN
variable (f : Nat) (x y : Reg) {n : Nat}

@[simp] theorem fieldN_wordOfXYN : fieldN (wordOfXYN f x.val y.val n) = BitVec.ofNat 4 n := by
  apply BitVec.eq_of_toNat_eq
  rw [toNat_fieldN, wordOfXYN, BitVec.toNat_ofNat, BitVec.toNat_ofNat]
  omega

variable (hn : n < 16)
include hn

theorem fieldF_wordOfXYN : fieldF (wordOfXYN f x.val y.val n) = BitVec.ofNat 4 f := by
  apply BitVec.eq_of_toNat_eq
  rw [toNat_fieldF, wordOfXYN, BitVec.toNat_ofNat, BitVec.toNat_ofNat]
  omega

theorem fieldX_wordOfXYN : fieldX (wordOfXYN f x.val y.val n) = x := by
  apply Fin.ext
  rw [val_fieldX, wordOfXYN, BitVec.toNat_ofNat]
  omega

theorem fieldY_wordOfXYN : fieldY (wordOfXYN f x.val y.val n) = y := by
  apply Fin.ext
  rw [val_fieldY, wordOfXYN, BitVec.toNat_ofNat]
  omega

theorem fieldN_wordOfXYN_ne_zero (h0 : 0 < n) : fieldN (wordOfXYN f x.val y.val n) ≠ 0#4 := by
  intro h
  have hN : n % 16 = 0 := by simpa using congrArg BitVec.toNat h
  omega

end XYN

/-! ## Decoding the register skips -/

theorem decodeWord_seImm (x : Reg) (nn : Byte) :
    decodeWord (wordOfXNN 0x3 x.val nn.toNat) = .ok (.seImm x nn) := by
  simp [decodeWord]

theorem decodeWord_sneImm (x : Reg) (nn : Byte) :
    decodeWord (wordOfXNN 0x4 x.val nn.toNat) = .ok (.sneImm x nn) := by
  simp [decodeWord]

/-- Families 5 and 9 hold one pattern each, the one with N = 0 (R120, R121). -/
theorem decodeWord_family5 {w : Word} (h : fieldF w = 0x5#4) :
    decodeWord w =
      if fieldN w = 0#4 then .ok (.seReg (fieldX w) (fieldY w)) else .error (.unknownOpcode w) := by
  simp [decodeWord, h]

theorem decodeWord_family9 {w : Word} (h : fieldF w = 0x9#4) :
    decodeWord w =
      if fieldN w = 0#4 then .ok (.sneReg (fieldX w) (fieldY w)) else .error (.unknownOpcode w) := by
  simp [decodeWord, h]

theorem decodeWord_seReg (x y : Reg) : decodeWord (wordOfXYN 0x5 x.val y.val 0) = .ok (.seReg x y) := by
  have h : 0 < 16 := by decide
  rw [decodeWord_family5 (fieldF_wordOfXYN 0x5 x y h), fieldN_wordOfXYN, if_pos rfl,
    fieldX_wordOfXYN 0x5 x y h, fieldY_wordOfXYN 0x5 x y h]

theorem decodeWord_sneReg (x y : Reg) : decodeWord (wordOfXYN 0x9 x.val y.val 0) = .ok (.sneReg x y) := by
  have h : 0 < 16 := by decide
  rw [decodeWord_family9 (fieldF_wordOfXYN 0x9 x y h), fieldN_wordOfXYN, if_pos rfl,
    fieldX_wordOfXYN 0x9 x y h, fieldY_wordOfXYN 0x9 x y h]

theorem decodeWord_5XYn_unknown (x y : Reg) {n : Nat} (h0 : 0 < n) (hn : n < 16) :
    decodeWord (wordOfXYN 0x5 x.val y.val n) = .error (.unknownOpcode (wordOfXYN 0x5 x.val y.val n)) := by
  rw [decodeWord_family5 (fieldF_wordOfXYN 0x5 x y hn), if_neg (fieldN_wordOfXYN_ne_zero 0x5 x y hn h0)]

theorem decodeWord_9XYn_unknown (x y : Reg) {n : Nat} (h0 : 0 < n) (hn : n < 16) :
    decodeWord (wordOfXYN 0x9 x.val y.val n) = .error (.unknownOpcode (wordOfXYN 0x9 x.val y.val n)) := by
  rw [decodeWord_family9 (fieldF_wordOfXYN 0x9 x y hn), if_neg (fieldN_wordOfXYN_ne_zero 0x9 x y hn h0)]

/-! ## What a skip does (R29) -/

theorem pcPlus_four_skip (s : State) : PcPlus 4 s (s.skipIf true) := by
  rw [PcPlus, State.skipIf_PC, if_pos rfl, BitVec.toNat_add]
  rfl

theorem pcPlus_two_advance (s : State) : PcPlus 2 s (s.skipIf false) := by
  rw [PcPlus, State.skipIf_PC, if_neg Bool.false_ne_true, BitVec.toNat_add]
  rfl

/-- A skip writes PC alone. -/
theorem onlyRegsAndPc_skipIf (s : State) (c : Bool) : OnlyRegsAndPc [] s (s.skipIf c) := by
  simp [OnlyRegsAndPc, RegsKept, MemoryKept, IndexKept, StackKept, TimersKept, DisplayKept, InputsKept, StatusKept,
    DrawsKept]

/-- An instruction whose meaning is a skip on `c` moves PC by 4 where `P` gives `c`, by 2 where `Q` excludes it. -/
theorem exec_skipIf {i : Instr} {s : State} {c : Bool} {P Q : Prop} (hx : exec i s = .next (s.skipIf c))
    (hP : P → c = true) (hQ : Q → c = false) :
    ∃ t, exec i s = .next t ∧ (P → PcPlus 4 s t) ∧ (Q → PcPlus 2 s t) ∧ OnlyRegsAndPc [] s t := by
  refine ⟨_, hx, fun h => ?_, fun h => ?_, onlyRegsAndPc_skipIf s c⟩
  · rw [hP h]; exact pcPlus_four_skip s
  · rw [hQ h]; exact pcPlus_two_advance s

theorem exec_seImm (x : Reg) (nn : Byte) (s : State) :
    exec (.seImm x nn) s = .next (s.skipIf (s.readV x == nn)) := rfl

theorem exec_sneImm (x : Reg) (nn : Byte) (s : State) :
    exec (.sneImm x nn) s = .next (s.skipIf (s.readV x != nn)) := rfl

theorem exec_seReg (x y : Reg) (s : State) :
    exec (.seReg x y) s = .next (s.skipIf (s.readV x == s.readV y)) := rfl

theorem exec_sneReg (x y : Reg) (s : State) :
    exec (.sneReg x y) s = .next (s.skipIf (s.readV x != s.readV y)) := rfl

/-- Settles O33: each of the four instructions is a skip on its own comparison (`exec_skipIf`), and families 5 and 9
decode only at N = 0. -/
theorem registerSkipsCompare : Obligations.RegisterSkipsCompare := by
  unfold Obligations.RegisterSkipsCompare
  refine ⟨fun x nn s => ⟨decodeWord_seImm x nn, decodeWord_sneImm x nn, ?seImm, ?sneImm⟩,
    fun x y s => ⟨decodeWord_seReg x y, decodeWord_sneReg x y,
      fun n h0 hn => ⟨decodeWord_5XYn_unknown x y h0 hn, decodeWord_9XYn_unknown x y h0 hn⟩, ?seReg, ?sneReg⟩⟩
  case seImm => exact exec_skipIf (exec_seImm x nn s) beq_iff_eq.2 beq_eq_false_iff_ne.2
  case sneImm => exact exec_skipIf (exec_sneImm x nn s) bne_iff_ne.2 bne_eq_false_iff_eq.2
  case seReg => exact exec_skipIf (exec_seReg x y s) beq_iff_eq.2 beq_eq_false_iff_ne.2
  case sneReg => exact exec_skipIf (exec_sneReg x y s) bne_iff_ne.2 bne_eq_false_iff_eq.2

end Sys2Proof.Proofs

/-! SUPPORT. An instruction that writes one register and goes on, and the register loads of 42_register_alu.md. -/

namespace Sys2Proof.Proofs

open Sys2Proof Sys2Proof.Machine Sys2Proof.Claims

/-! ## Decoding the register loads -/

theorem decodeWord_ldImm (x : Reg) (nn : Byte) :
    decodeWord (wordOfXNN 0x6 x.val nn.toNat) = .ok (.ldImm x nn) := by
  simp [decodeWord]

/-- Family 8 is decoded by its N digit (R84). -/
theorem decodeWord_family8 {w : Word} (h : fieldF w = 0x8#4) : decodeWord w = decodeFamily8 w := by
  simp [decodeWord, h]

theorem decodeWord_ldReg (x y : Reg) : decodeWord (wordOfXYN 0x8 x.val y.val 0) = .ok (.ldReg x y) := by
  have h : 0 < 16 := by decide
  rw [decodeWord_family8 (fieldF_wordOfXYN 0x8 x y h)]
  simp [decodeFamily8, fieldX_wordOfXYN 0x8 x y h, fieldY_wordOfXYN 0x8 x y h]

/-! ## What a register write that goes on does (R26, R29) -/

/-- The write changes no register but its own, VF among the kept ones where it is not the destination (R133). -/
theorem onlyRegsAndPc_writeV_advance (s : State) (x : Reg) (v : Byte) :
    OnlyRegsAndPc [x] s (s.writeV x v).advance := by
  have hregs : RegsKept [x] s (s.writeV x v).advance := by
    intro y hy
    have hne : y ≠ x := fun h => hy (List.mem_singleton.2 h)
    simp [State.advance, hne]
  refine ⟨hregs, ?_⟩
  simp [MemoryKept, IndexKept, StackKept, TimersKept, DisplayKept, InputsKept, StatusKept, DrawsKept, State.advance,
    State.writeV]

/-- An instruction whose meaning is a write of `v` to `V[x]` leaves `v` there, moves PC by 2 and keeps all else. -/
theorem exec_writeV_advance {i : Instr} {s : State} {x : Reg} {v : Byte}
    (hx : exec i s = .next (s.writeV x v).advance) :
    ∃ t, exec i s = .next t ∧ t.readV x = v ∧ PcPlus 2 s t ∧ OnlyRegsAndPc [x] s t := by
  refine ⟨_, hx, ?_, pcPlus_two_advance (s.writeV x v), onlyRegsAndPc_writeV_advance s x v⟩
  simp [State.advance]

theorem exec_ldImm (x : Reg) (nn : Byte) (s : State) :
    exec (.ldImm x nn) s = .next (s.writeV x nn).advance := rfl

theorem exec_ldReg (x y : Reg) (s : State) :
    exec (.ldReg x y) s = .next (s.writeV x (s.readV y)).advance := rfl

/-- Settles O34: each load is one register write that goes on (`exec_writeV_advance`), of NN or of `V[Y]`, for every
X alike, VF included. -/
theorem loadsWriteTheRegister : Obligations.LoadsWriteTheRegister := by
  unfold Obligations.LoadsWriteTheRegister
  refine ⟨fun x nn s => ⟨decodeWord_ldImm x nn, ?ldImm⟩, fun x y s => ⟨decodeWord_ldReg x y, ?ldReg⟩⟩
  case ldImm => exact exec_writeV_advance (exec_ldImm x nn s)
  case ldReg => exact exec_writeV_advance (exec_ldReg x y s)

end Sys2Proof.Proofs

/-! SUPPORT. The fields of a word written as a family digit and NNN, an instruction that writes I and goes on, and ANNN
of 43_index_memory.md. -/

namespace Sys2Proof.Proofs

open Sys2Proof Sys2Proof.Machine Sys2Proof.Claims

/-! ## The fields of a word written as a family digit and NNN (R81) -/

theorem toNat_fieldNNN (w : Word) : (fieldNNN w).toNat = w.toNat % 4096 := by
  rw [fieldNNN, BitVec.toNat_setWidth, BitVec.extractLsb'_toNat, Nat.shiftRight_zero]
  omega

section NNN
variable (f : Nat) {nnn : Word} (h : nnn.toNat < 4096)
include h

theorem fieldF_wordOfNNN : fieldF (wordOfNNN f nnn.toNat) = BitVec.ofNat 4 f := by
  apply BitVec.eq_of_toNat_eq
  rw [toNat_fieldF, wordOfNNN, BitVec.toNat_ofNat, BitVec.toNat_ofNat]
  omega

theorem fieldNNN_wordOfNNN : fieldNNN (wordOfNNN f nnn.toNat) = nnn := by
  apply BitVec.eq_of_toNat_eq
  rw [toNat_fieldNNN, wordOfNNN, BitVec.toNat_ofNat]
  omega

end NNN

theorem decodeWord_ldI {nnn : Word} (h : nnn.toNat < 4096) :
    decodeWord (wordOfNNN 0xA nnn.toNat) = .ok (.ldI nnn) := by
  simp [decodeWord, fieldF_wordOfNNN 0xA h, fieldNNN_wordOfNNN 0xA h]

/-! ## What an index write that goes on does (R29, R160) -/

/-- The write changes I and PC alone. -/
theorem onlyIndexAndPc_setI_advance (s : State) (v : Word) : OnlyIndexAndPc s (s.setI v).advance := by
  simp [OnlyIndexAndPc, RegsKept, MemoryKept, StackKept, TimersKept, DisplayKept, InputsKept, StatusKept, DrawsKept,
    State.advance]

/-- An instruction whose meaning is a write of `v` to I leaves `v` there, moves PC by 2 and keeps all else. -/
theorem exec_setI_advance {i : Instr} {s : State} {v : Word} (hx : exec i s = .next (s.setI v).advance) :
    ∃ t, exec i s = .next t ∧ t.I = v ∧ PcPlus 2 s t ∧ OnlyIndexAndPc s t :=
  ⟨_, hx, rfl, pcPlus_two_advance (s.setI v), onlyIndexAndPc_setI_advance s v⟩

theorem exec_ldI (nnn : Word) (s : State) : exec (.ldI nnn) s = .next (s.setI nnn).advance := rfl

/-- Settles O41: ANNN is one index write that goes on (`exec_setI_advance`); the 12-bit bound keeps NNN out of the
family digit, so that the word decodes to it. -/
theorem loadIndexSetsI : Obligations.LoadIndexSetsI := by
  unfold Obligations.LoadIndexSetsI
  intro nnn s h
  exact ⟨decodeWord_ldI h, exec_setI_advance (exec_ldI nnn s)⟩

end Sys2Proof.Proofs

/-! SUPPORT. The decoder against the encoder and against the opcode map of 30_encoding.md R83. -/

namespace Sys2Proof.Proofs

open Sys2Proof Sys2Proof.Machine Sys2Proof.Claims

/-! ## Decoding what the encoder writes (R83, R84) -/

/-- The decoder reads the fields the encoder wrote; the operands that are wider than their fields, NNN and N, are in
range by `Instr.wf`. -/
theorem decodeWord_encode {i : Instr} (h : i.wf = true) : decodeWord (encode i) = .ok i := by
  cases i
  case cls => rfl
  case ret => rfl
  case jp nnn => simp [encode, decodeWord, Word.setWidth_of_isAddress12 h]
  case call nnn => simp [encode, decodeWord, Word.setWidth_of_isAddress12 h]
  case ldI nnn => simp [encode, decodeWord, Word.setWidth_of_isAddress12 h]
  case drw x y n =>
    have hn : n < 16 := by simpa [Instr.wf, isNibble] using h
    simp [encode, decodeWord, Nat.mod_eq_of_lt hn]
  all_goals simp [encode, decodeWord, decodeFamily8, decodeFamilyE, decodeFamilyF]

/-- The bytes of a word in memory order decode as the word does, and leave the bytes after them. -/
theorem decode_bytesOfWord {w : Word} {i : Instr} (h : decodeWord w = .ok i) (rest : List Byte) :
    decode (bytesOfWord w ++ rest) = .ok (i, rest) := by
  simp [bytesOfWord, decode, h]

/-- Settles O1: the decoder undoes the encoder word by word (`decodeWord_encode`), and two bytes in memory order are
their word again. -/
theorem decodeOfEncodeIsTheInstruction : Obligations.DecodeOfEncodeIsTheInstruction := by
  unfold Obligations.DecodeOfEncodeIsTheInstruction
  intro i rest h
  exact ⟨decodeWord_encode h, decode_bytesOfWord (decodeWord_encode h) rest⟩

/-! ## Encoding what the decoder reads (R83, R88) -/

section fields
variable {w : Word} {f : BitVec 4} (hF : fieldF w = f)
include hF

theorem wordNNN_of_fields : wordNNN f (fieldNNN w) = w := hF ▸ word_eq_NNN w

theorem wordXNN_of_fields {nn : Byte} (hN : fieldNN w = nn) : wordXNN f (fieldX w) nn = w :=
  hF ▸ hN ▸ word_eq_XNN w

theorem wordXYN_of_fields {n : BitVec 4} (hN : fieldN w = n) : wordXYN f (fieldX w) (fieldY w) n = w :=
  hF ▸ hN ▸ word_eq_XYN w

end fields

/-- Each branch of the decoder fixes the fields that its instruction's row fixes and passes on the others, so the
encoder writes the word back. -/
theorem encode_of_decodeWord {w : Word} {i : Instr} (h : decodeWord w = .ok i) : encode i = w := by
  unfold decodeWord at h
  split at h
  case h_1 =>
    split at h
    · next h0 => cases h; exact h0.symm
    · split at h
      · next h0 => cases h; exact h0.symm
      · cases h
  case h_2 hF => cases h; exact wordNNN_of_fields hF
  case h_3 hF => cases h; exact wordNNN_of_fields hF
  case h_11 hF => cases h; exact wordNNN_of_fields hF
  case h_6 hF =>
    split at h
    · next hN => cases h; exact wordXYN_of_fields hF hN
    · cases h
  case h_10 hF =>
    split at h
    · next hN => cases h; exact wordXYN_of_fields hF hN
    · cases h
  case h_9 hF =>
    unfold decodeFamily8 at h
    split at h
    case h_10 => cases h
    all_goals next hN => cases h; exact wordXYN_of_fields hF hN
  case h_13 hF => cases h; exact wordXYN_of_fields hF (by simp)
  case h_14 hF =>
    unfold decodeFamilyE at h
    split at h
    case h_3 => cases h
    all_goals next hN => cases h; exact wordXNN_of_fields hF hN
  case h_15 hF =>
    unfold decodeFamilyF at h
    split at h
    case h_10 => cases h
    all_goals next hN => cases h; exact wordXNN_of_fields hF hN
  case h_16 => cases h
  all_goals next hF => cases h; exact wordXNN_of_fields hF rfl

/-- Settles O2: well-formedness is `decodeWord_wf`, the word is `encode_of_decodeWord`. -/
theorem encodeOfDecodeIsTheWord : Obligations.EncodeOfDecodeIsTheWord := by
  unfold Obligations.EncodeOfDecodeIsTheWord
  intro w i h
  exact ⟨decodeWord_wf h, encode_of_decodeWord h⟩

/-! ## The opcode map (R83) -/

/-- The instruction's row is in the map and its word matches it. -/
theorem encodeMatchesRow (i : Instr) : Laws.EncodeMatchesRow.Statement i := by
  cases i
  case cls => exact Laws.EncodeMatchesRow.cls
  case ret => exact Laws.EncodeMatchesRow.ret
  case jp => exact Laws.EncodeMatchesRow.jp _
  case call => exact Laws.EncodeMatchesRow.call _
  case seImm => exact Laws.EncodeMatchesRow.seImm _ _
  case sneImm => exact Laws.EncodeMatchesRow.sneImm _ _
  case seReg => exact Laws.EncodeMatchesRow.seReg _ _
  case ldImm => exact Laws.EncodeMatchesRow.ldImm _ _
  case addImm => exact Laws.EncodeMatchesRow.addImm _ _
  case ldReg => exact Laws.EncodeMatchesRow.ldReg _ _
  case or => exact Laws.EncodeMatchesRow.or _ _
  case and => exact Laws.EncodeMatchesRow.and _ _
  case xor => exact Laws.EncodeMatchesRow.xor _ _
  case addReg => exact Laws.EncodeMatchesRow.addReg _ _
  case sub => exact Laws.EncodeMatchesRow.sub _ _
  case shr => exact Laws.EncodeMatchesRow.shr _ _
  case subn => exact Laws.EncodeMatchesRow.subn _ _
  case shl => exact Laws.EncodeMatchesRow.shl _ _
  case sneReg => exact Laws.EncodeMatchesRow.sneReg _ _
  case ldI => exact Laws.EncodeMatchesRow.ldI _
  case rnd => exact Laws.EncodeMatchesRow.rnd _ _
  case drw => exact Laws.EncodeMatchesRow.drw _ _ _
  case skp => exact Laws.EncodeMatchesRow.skp _
  case sknp => exact Laws.EncodeMatchesRow.sknp _
  case ldVxDt => exact Laws.EncodeMatchesRow.ldVxDt _
  case ldVxK => exact Laws.EncodeMatchesRow.ldVxK _
  case ldDtVx => exact Laws.EncodeMatchesRow.ldDtVx _
  case ldStVx => exact Laws.EncodeMatchesRow.ldStVx _
  case addI => exact Laws.EncodeMatchesRow.addI _
  case ldF => exact Laws.EncodeMatchesRow.ldF _
  case ldB => exact Laws.EncodeMatchesRow.ldB _
  case ldMemVx => exact Laws.EncodeMatchesRow.ldMemVx _
  case ldVxMem => exact Laws.EncodeMatchesRow.ldVxMem _

/-- A decoded word matches its instruction's row. -/
theorem row_of_decodeWord {w : Word} {i : Instr} (h : decodeWord w = .ok i) :
    i.row ∈ opcodeTable ∧ w &&& i.row.mask = i.row.pattern := by
  obtain ⟨hmem, hacc⟩ := encodeMatchesRow i
  rw [encode_of_decodeWord h] at hacc
  exact ⟨hmem, by simpa [OpcodeRow.accepts] using hacc⟩

/-- Where two rows match one word, their patterns agree on the bits both fix. -/
theorem patterns_agree {w : Word} {r r' : OpcodeRow} (h : w &&& r.mask = r.pattern) (h' : w &&& r'.mask = r'.pattern) :
    r.pattern &&& r'.mask = r'.pattern &&& r.mask := by
  rw [← h, ← h', BitVec.and_assoc, BitVec.and_assoc, BitVec.and_comm r.mask]

/-- No two rows agree on the bits both fix. -/
theorem rows_disjoint : ∀ r ∈ opcodeTable, ∀ r' ∈ opcodeTable,
    r.pattern &&& r'.mask = r'.pattern &&& r.mask → r = r' := by decide

/-- The words of R83's patterns by their fields: what the decoder tests. -/
def HasPattern (w : Word) : Prop :=
  w ∈ [0x00E0#16, 0x00EE#16] ∨
  fieldF w ∈ [0x1#4, 0x2#4, 0x3#4, 0x4#4, 0x6#4, 0x7#4, 0xA#4, 0xC#4, 0xD#4] ∨
  (fieldF w ∈ [0x5#4, 0x9#4] ∧ fieldN w = 0x0#4) ∨
  (fieldF w = 0x8#4 ∧ fieldN w ∈ [0x0#4, 0x1#4, 0x2#4, 0x3#4, 0x4#4, 0x5#4, 0x6#4, 0x7#4, 0xE#4]) ∨
  (fieldF w = 0xE#4 ∧ fieldNN w ∈ [0x9E#8, 0xA1#8]) ∨
  (fieldF w = 0xF#4 ∧
    fieldNN w ∈ [0x07#8, 0x0A#8, 0x15#8, 0x18#8, 0x1E#8, 0x29#8, 0x33#8, 0x55#8, 0x65#8])

theorem decodes_of_hasPattern {w : Word} (h : HasPattern w) : ∃ i, decodeWord w = .ok i := by
  rcases h with h | h | ⟨hF, hN⟩ | ⟨hF, hN⟩ | ⟨hF, hN⟩ | ⟨hF, hN⟩
  case inl =>
    simp only [List.mem_cons, List.not_mem_nil, or_false] at h
    rcases h with rfl | rfl <;> exact ⟨_, rfl⟩
  case inr.inl =>
    simp only [List.mem_cons, List.not_mem_nil, or_false] at h
    rcases h with h | h | h | h | h | h | h | h | h <;> simp [decodeWord, h]
  case inr.inr.inl =>
    simp only [List.mem_cons, List.not_mem_nil, or_false] at hF
    rcases hF with h | h <;> simp [decodeWord, h, hN]
  case inr.inr.inr.inl =>
    simp only [List.mem_cons, List.not_mem_nil, or_false] at hN
    rcases hN with h | h | h | h | h | h | h | h | h <;> simp [decodeWord, decodeFamily8, hF, h]
  case inr.inr.inr.inr.inl =>
    simp only [List.mem_cons, List.not_mem_nil, or_false] at hN
    rcases hN with h | h <;> simp [decodeWord, decodeFamilyE, hF, h]
  case inr.inr.inr.inr.inr =>
    simp only [List.mem_cons, List.not_mem_nil, or_false] at hN
    rcases hN with h | h | h | h | h | h | h | h | h <;> simp [decodeWord, decodeFamilyF, hF, h]

/-! A row fixes a field whose mask bits are all 1. -/

section masks
variable {w m p : Word} (h : w &&& m = p)
include h

theorem fieldF_of_match (hm : fieldF m = 0xF#4) : fieldF w = fieldF p := by
  have hand : fieldF (w &&& m) = fieldF w &&& fieldF m := BitVec.extractLsb'_and
  rw [← h, hand, hm]
  exact BitVec.and_allOnes.symm

theorem fieldN_of_match (hm : fieldN m = 0xF#4) : fieldN w = fieldN p := by
  have hand : fieldN (w &&& m) = fieldN w &&& fieldN m := BitVec.extractLsb'_and
  rw [← h, hand, hm]
  exact BitVec.and_allOnes.symm

theorem fieldNN_of_match (hm : fieldNN m = 0xFF#8) : fieldNN w = fieldNN p := by
  have hand : fieldNN (w &&& m) = fieldNN w &&& fieldNN m := BitVec.extractLsb'_and
  rw [← h, hand, hm]
  exact BitVec.and_allOnes.symm

end masks

/-- Every row's pattern has a listed pattern's fields, and its mask fixes the fields that tell it from the others. -/
theorem row_shapes : ∀ r ∈ opcodeTable,
    (r.mask = 0xFFFF#16 ∧ r.pattern ∈ [0x00E0#16, 0x00EE#16]) ∨
    (r.mask = 0xF000#16 ∧
      fieldF r.pattern ∈ [0x1#4, 0x2#4, 0x3#4, 0x4#4, 0x6#4, 0x7#4, 0xA#4, 0xC#4, 0xD#4]) ∨
    (r.mask = 0xF00F#16 ∧
      ((fieldF r.pattern ∈ [0x5#4, 0x9#4] ∧ fieldN r.pattern = 0x0#4) ∨
       (fieldF r.pattern = 0x8#4 ∧
        fieldN r.pattern ∈ [0x0#4, 0x1#4, 0x2#4, 0x3#4, 0x4#4, 0x5#4, 0x6#4, 0x7#4, 0xE#4]))) ∨
    (r.mask = 0xF0FF#16 ∧
      ((fieldF r.pattern = 0xE#4 ∧ fieldNN r.pattern ∈ [0x9E#8, 0xA1#8]) ∨
       (fieldF r.pattern = 0xF#4 ∧
        fieldNN r.pattern ∈ [0x07#8, 0x0A#8, 0x15#8, 0x18#8, 0x1E#8, 0x29#8, 0x33#8, 0x55#8, 0x65#8]))) := by
  decide

theorem hasPattern_of_row {w : Word} {r : OpcodeRow} (hr : r ∈ opcodeTable) (h : w &&& r.mask = r.pattern) :
    HasPattern w := by
  rcases row_shapes r hr with ⟨hm, hp⟩ | ⟨hm, hp⟩ | ⟨hm, hp⟩ | ⟨hm, hp⟩ <;> rw [hm] at h
  case inl =>
    have hw : w = r.pattern := (BitVec.and_allOnes (x := w)).symm.trans h
    exact .inl (hw ▸ hp)
  case inr.inl =>
    rw [← fieldF_of_match h rfl] at hp
    exact .inr (.inl hp)
  case inr.inr.inl =>
    rw [← fieldF_of_match h rfl, ← fieldN_of_match h rfl] at hp
    exact .inr (.inr (hp.imp_right .inl))
  case inr.inr.inr =>
    rw [← fieldF_of_match h rfl, ← fieldNN_of_match h rfl] at hp
    exact .inr (.inr (.inr (.inr hp)))

/-- The decoder accepts exactly the words with a listed pattern. -/
theorem decodes_iff_hasPattern (w : Word) : (∃ i, decodeWord w = .ok i) ↔ HasPattern w := by
  refine ⟨fun ⟨i, h⟩ => ?_, decodes_of_hasPattern⟩
  obtain ⟨hmem, hrow⟩ := row_of_decodeWord h
  exact hasPattern_of_row hmem hrow

/-- Settles O3: a decoded word matches its instruction's row (`row_of_decodeWord`), a word that matches a row has a
listed pattern and so decodes, and rows that agree where both look are one row (`rows_disjoint`). -/
theorem instructionsAreTheThirtyThreePatterns : Obligations.InstructionsAreTheThirtyThreePatterns := by
  unfold Obligations.InstructionsAreTheThirtyThreePatterns
  refine ⟨rfl, fun w => ⟨?_, ?_⟩, fun w i => row_of_decodeWord, fun w r r' hr hr' h h' => ?_⟩
  · rintro ⟨i, h⟩
    exact ⟨i.row, row_of_decodeWord h⟩
  · rintro ⟨r, hr, h⟩
    exact decodes_of_hasPattern (hasPattern_of_row hr h)
  · exact rows_disjoint r hr r' hr' (patterns_agree h h')

/-! ## The words that are no instruction (R85) -/

/-- A word is rejected, under its own name, exactly when it has no listed pattern. -/
theorem decodeWord_error_iff (w : Word) : decodeWord w = .error (.unknownOpcode w) ↔ ¬ HasPattern w := by
  rw [← decodes_iff_hasPattern]
  cases hd : decodeWord w with
  | ok i => simp
  | error r => simp [decodeWord_error hd]

/-- R85's table lists the words without a pattern: family by family, both sides speak of the same digits. -/
theorem not_hasPattern_iff (w : Word) : ¬ HasPattern w ↔ UnknownWord w.toNat := by
  have hfam : w.toNat / 4096 < 16 := by omega
  simp only [HasPattern, UnknownWord, List.mem_cons, List.not_mem_nil, or_false, ← BitVec.toNat_inj, toNat_fieldF,
    toNat_fieldN, toNat_fieldNN, BitVec.toNat_ofNat, Nat.reducePow, Nat.reduceMod]
  generalize hf : w.toNat / 4096 = f at *
  interval_cases f <;> simp <;> omega

/-- Settles O4: a rejected word is one with no listed pattern (`decodeWord_error_iff`), and those are R85's words
(`not_hasPattern_iff`). -/
theorem listedWordsAreUnknownOpcodes : Obligations.ListedWordsAreUnknownOpcodes := by
  unfold Obligations.ListedWordsAreUnknownOpcodes
  intro w
  rw [decodeWord_error_iff, not_hasPattern_iff]

/-- Settles O5: the model's decoder computes each word. -/
theorem writtenOutWordsDecode : Obligations.WrittenOutWordsDecode := by
  unfold Obligations.WrittenOutWordsDecode
  decide

/-- The instruction of an assembler line (R87). -/
def assemble : String × List AsmOperand → Option Instr
  | ("CLS", []) => some .cls
  | ("RET", []) => some .ret
  | ("JP", [.addr nnn]) => some (.jp nnn)
  | ("CALL", [.addr nnn]) => some (.call nnn)
  | ("SE", [.reg x, .byte nn]) => some (.seImm x nn)
  | ("SNE", [.reg x, .byte nn]) => some (.sneImm x nn)
  | ("SE", [.reg x, .reg y]) => some (.seReg x y)
  | ("SNE", [.reg x, .reg y]) => some (.sneReg x y)
  | ("LD", [.reg x, .byte nn]) => some (.ldImm x nn)
  | ("LD", [.reg x, .reg y]) => some (.ldReg x y)
  | ("LD", [.index, .addr nnn]) => some (.ldI nnn)
  | ("LD", [.reg x, .dt]) => some (.ldVxDt x)
  | ("LD", [.reg x, .key]) => some (.ldVxK x)
  | ("LD", [.dt, .reg x]) => some (.ldDtVx x)
  | ("LD", [.st, .reg x]) => some (.ldStVx x)
  | ("LD", [.font, .reg x]) => some (.ldF x)
  | ("LD", [.bcd, .reg x]) => some (.ldB x)
  | ("LD", [.atIndex, .reg x]) => some (.ldMemVx x)
  | ("LD", [.reg x, .atIndex]) => some (.ldVxMem x)
  | ("ADD", [.reg x, .byte nn]) => some (.addImm x nn)
  | ("ADD", [.reg x, .reg y]) => some (.addReg x y)
  | ("ADD", [.index, .reg x]) => some (.addI x)
  | ("OR", [.reg x, .reg y]) => some (.or x y)
  | ("AND", [.reg x, .reg y]) => some (.and x y)
  | ("XOR", [.reg x, .reg y]) => some (.xor x y)
  | ("SUB", [.reg x, .reg y]) => some (.sub x y)
  | ("SHR", [.reg x, .reg y]) => some (.shr x y)
  | ("SUBN", [.reg x, .reg y]) => some (.subn x y)
  | ("SHL", [.reg x, .reg y]) => some (.shl x y)
  | ("RND", [.reg x, .byte nn]) => some (.rnd x nn)
  | ("DRW", [.reg x, .reg y, .height n]) => some (.drw x y n)
  | ("SKP", [.reg x]) => some (.skp x)
  | ("SKNP", [.reg x]) => some (.sknp x)
  | _ => none

/-- Every assembler line names its instruction. -/
theorem assemble_assembly (i : Instr) : assemble i.assembly = some i := by
  cases i <;> rfl

/-- Settles O6: two instructions with one assembler line are one instruction (`assemble_assembly`). -/
theorem oneWordForEachAssemblyLine : Obligations.OneWordForEachAssemblyLine := by
  unfold Obligations.OneWordForEachAssemblyLine
  intro i j h
  have hij : some i = some j := by rw [← assemble_assembly i, h, assemble_assembly j]
  rw [Option.some.inj hij]

end Sys2Proof.Proofs

/-! SUPPORT. What an instruction does when it raises no fault, as one relation, and that this is its meaning. -/

namespace Sys2Proof.Proofs

open Sys2Proof Sys2Proof.Machine Sys2Proof.Claims

/-! ## Execution without a fault -/

/-- The state an instruction that raises no fault leaves: one constructor per instruction, with the condition under
which it raises none, and one more for FX0A with no key down. -/
inductive Completes (s : State) : Instr → State → Prop
  | cls : Completes s .cls ((s.setDisplay Display.clear).setRedraw true).advance
  | ret (h : s.SP.val ≠ 0) :
    Completes s .ret
      ((s.setSP ⟨s.SP.val - 1, by omega⟩).setPC (s.stack[s.SP.val - 1]'(by omega) + 2#16))
  | jp (nnn : Word) : Completes s (.jp nnn) (s.setPC nnn)
  | call (nnn : Word) (h : s.SP.val < 16) :
    Completes s (.call nnn)
      (((s.setStack (s.stack.set s.SP.val s.PC)).setSP ⟨s.SP.val + 1, by omega⟩).setPC nnn)
  | seImm (x : Reg) (nn : Byte) : Completes s (.seImm x nn) (s.skipIf (s.readV x == nn))
  | sneImm (x : Reg) (nn : Byte) : Completes s (.sneImm x nn) (s.skipIf (s.readV x != nn))
  | seReg (x y : Reg) : Completes s (.seReg x y) (s.skipIf (s.readV x == s.readV y))
  | sneReg (x y : Reg) : Completes s (.sneReg x y) (s.skipIf (s.readV x != s.readV y))
  | ldImm (x : Reg) (nn : Byte) : Completes s (.ldImm x nn) (s.writeV x nn).advance
  | addImm (x : Reg) (nn : Byte) : Completes s (.addImm x nn) (s.writeV x (s.readV x + nn)).advance
  | ldReg (x y : Reg) : Completes s (.ldReg x y) (s.writeV x (s.readV y)).advance
  | or (x y : Reg) : Completes s (.or x y) (s.writeV x (s.readV x ||| s.readV y)).advance
  | and (x y : Reg) : Completes s (.and x y) (s.writeV x (s.readV x &&& s.readV y)).advance
  | xor (x y : Reg) : Completes s (.xor x y) (s.writeV x (s.readV x ^^^ s.readV y)).advance
  | addReg (x y : Reg) :
    Completes s (.addReg x y)
      (s.writeWithFlag x (s.readV x + s.readV y) (carry (s.readV x) (s.readV y))).advance
  | sub (x y : Reg) :
    Completes s (.sub x y)
      (s.writeWithFlag x (s.readV x - s.readV y) (noBorrow (s.readV x) (s.readV y))).advance
  | shr (x y : Reg) :
    Completes s (.shr x y) (s.writeWithFlag x (s.readV x >>> 1) (shiftedOutRight (s.readV x))).advance
  | subn (x y : Reg) :
    Completes s (.subn x y)
      (s.writeWithFlag x (s.readV y - s.readV x) (noBorrow (s.readV y) (s.readV x))).advance
  | shl (x y : Reg) :
    Completes s (.shl x y) (s.writeWithFlag x (s.readV x <<< 1) (shiftedOutLeft (s.readV x))).advance
  | rnd (x : Reg) (nn : Byte) : Completes s (.rnd x nn) (s.countDraw.writeV x (s.rndByte &&& nn)).advance
  | drw (x y : Reg) (n : Nat) (h : s.dataOk n = true) :
    Completes s (.drw x y n)
      (((s.setDisplay (s.drawn x y n).display).writeV VF (flagByte (s.drawn x y n).collision)).setRedraw
        true).advance
  | skp (x k : Reg) (h : k.val = (s.readV x).toNat) : Completes s (.skp x) (s.skipIf (s.keyDown k))
  | sknp (x k : Reg) (h : k.val = (s.readV x).toNat) : Completes s (.sknp x) (s.skipIf (!s.keyDown k))
  | ldVxDt (x : Reg) : Completes s (.ldVxDt x) (s.writeV x s.DT).advance
  | ldVxK (x k : Reg) (h : s.lowestKey = some k) : Completes s (.ldVxK x) (s.writeV x (keyByte k)).advance
  | blocked (x : Reg) (h : s.lowestKey = none) : Completes s (.ldVxK x) s
  | ldDtVx (x : Reg) : Completes s (.ldDtVx x) (s.setDT (s.readV x)).advance
  | ldStVx (x : Reg) : Completes s (.ldStVx x) (s.setST (s.readV x)).advance
  | ldI (nnn : Word) : Completes s (.ldI nnn) (s.setI nnn).advance
  | addI (x : Reg) : Completes s (.addI x) (s.setI (s.I + (s.readV x).zext)).advance
  | ldF (x : Reg) :
    Completes s (.ldF x) (s.setI (BitVec.ofNat 16 (Config.fontBase + 5 * (s.readV x).toNat))).advance
  | ldB (x : Reg) (h : s.dataOk 3 = true) :
    Completes s (.ldB x) (s.storeBytes s.addrI (bcdDigits (s.readV x))).advance
  | ldMemVx (x : Reg) (h : s.dataOk (x.val + 1) = true) :
    Completes s (.ldMemVx x) (s.storeBytes s.addrI (s.blockOf x)).advance
  | ldVxMem (x : Reg) (h : s.dataOk (x.val + 1) = true) :
    Completes s (.ldVxMem x) (s.loadRegs s.addrI (regsUpTo x)).advance

theorem completes_of_no_fault {i : Instr} {s t : State} (h : faultOf s i = none) (hx : exec i s = .next t) :
    Completes s i t := by
  cases i
  case ret =>
    have h0 : s.SP.val ≠ 0 := by simpa [faultOf] using h
    simp only [exec, execRet, State.pop, dif_neg h0] at hx
    cases hx
    exact .ret h0
  case call nnn =>
    have h16 : s.SP.val < 16 := by
      have : s.SP.val ≠ 16 := by simpa [faultOf] using h
      omega
    simp only [exec, execCall, State.push, dif_pos h16] at hx
    cases hx
    exact .call nnn h16
  case skp x =>
    have hk : ¬ 0xF < (s.readV x).toNat := by simpa [faultOf] using h
    simp only [exec, execSkp, keyOf_of_le hk] at hx
    cases hx
    exact .skp x _ rfl
  case sknp x =>
    have hk : ¬ 0xF < (s.readV x).toNat := by simpa [faultOf] using h
    simp only [exec, execSknp, keyOf_of_le hk] at hx
    cases hx
    exact .sknp x _ rfl
  case ldVxK x =>
    simp only [exec, execLdVxK] at hx
    split at hx
    · next k hk => cases hx; exact .ldVxK x k hk
    · next hk => cases hx; exact .blocked x hk
  case drw x y n =>
    have hd : s.dataOk n = true := by simpa [faultOf] using h
    simp only [exec, execDrw, if_pos hd] at hx
    cases hx
    exact .drw x y n hd
  case ldB x =>
    have hd : s.dataOk 3 = true := by simpa [faultOf] using h
    simp only [exec, execLdB, if_pos hd] at hx
    cases hx
    exact .ldB x hd
  case ldMemVx x =>
    have hd : s.dataOk (x.val + 1) = true := by simpa [faultOf] using h
    simp only [exec, execLdMemVx, if_pos hd] at hx
    cases hx
    exact .ldMemVx x hd
  case ldVxMem x =>
    have hd : s.dataOk (x.val + 1) = true := by simpa [faultOf] using h
    simp only [exec, execLdVxMem, if_pos hd] at hx
    cases hx
    exact .ldVxMem x hd
  all_goals
    cases hx
    constructor

theorem keyOf_eq_some {s : State} {x k : Reg} (h : k.val = (s.readV x).toNat) : s.keyOf x = some k := by
  have hk : ¬ 0xF < (s.readV x).toNat := by omega
  rw [keyOf_of_le hk]
  exact congrArg some (Fin.ext h.symm)

/-- `Completes` is the meaning of the instruction. -/
theorem exec_of_completes {i : Instr} {s t : State} (h : Completes s i t) : exec i s = .next t := by
  cases h
  case ret h0 => simp only [exec, execRet, State.pop, dif_neg h0]
  case call nnn h16 => simp only [exec, execCall, State.push, dif_pos h16]
  case skp x k hk => simp only [exec, execSkp, keyOf_eq_some hk]
  case sknp x k hk => simp only [exec, execSknp, keyOf_eq_some hk]
  case ldVxK x k hk => simp only [exec, execLdVxK, hk]
  case blocked x hk => simp only [exec, execLdVxK, hk]
  case drw x y n hd => simp only [exec, execDrw, if_pos hd]
  case ldB x hd => simp only [exec, execLdB, if_pos hd]
  case ldMemVx x hd => simp only [exec, execLdMemVx, if_pos hd]
  case ldVxMem x hd => simp only [exec, execLdVxMem, if_pos hd]
  all_goals rfl

/-- What an execution did: it took the instruction's fault, or completed. -/
theorem exec_cases {i : Instr} {s t : State} (hx : exec i s = .next t) :
    (∃ c, faultOf s i = some c ∧ t = s.raise c) ∨ (faultOf s i = none ∧ Completes s i t) := by
  cases hc : faultOf s i with
  | some c =>
    rw [exec_of_fault hc] at hx
    cases hx
    exact .inl ⟨c, rfl, rfl⟩
  | none => exact .inr ⟨rfl, completes_of_no_fault hc hx⟩

/-- The one next state of an instruction. -/
theorem exec_det {i : Instr} {s t u : State} (ht : exec i s = .next t) (hu : exec i s = .next u) : t = u := by
  rw [ht] at hu
  cases hu
  rfl

end Sys2Proof.Proofs

/-! SUPPORT. The frame of every instruction: which fields it may write, and that it leaves the others. -/

namespace Sys2Proof.Proofs

open Sys2Proof Sys2Proof.Machine Sys2Proof.Claims

/-! ## The instructions that write a field -/

/-- ANNN, FX1E and FX29 (R27). -/
def writesIndex : Instr → Bool
  | .ldI _ => true
  | .addI _ => true
  | .ldF _ => true
  | _ => false

/-- FX33 and FX55 (R64). -/
def writesMemory : Instr → Bool
  | .ldB _ => true
  | .ldMemVx _ => true
  | _ => false

/-- 00E0 and DXYN (R37). -/
def writesDisplay : Instr → Bool
  | .cls => true
  | .drw _ _ _ => true
  | _ => false

/-- 2NNN and 00EE (R31). -/
def writesStack : Instr → Bool
  | .ret => true
  | .call _ => true
  | _ => false

/-- FX15 (R35). -/
def writesDT : Instr → Bool
  | .ldDtVx _ => true
  | _ => false

/-- FX18 (R35). -/
def writesST : Instr → Bool
  | .ldStVx _ => true
  | _ => false

/-- CXNN (R146). -/
def drawsByte : Instr → Bool
  | .rnd _ _ => true
  | _ => false

/-- The instructions that do not simply add 2 to PC (R29). -/
def steersPC : Instr → Bool
  | .ret => true
  | .jp _ => true
  | .call _ => true
  | .seImm _ _ => true
  | .sneImm _ _ => true
  | .seReg _ _ => true
  | .sneReg _ _ => true
  | .skp _ => true
  | .sknp _ => true
  | .ldVxK _ => true
  | _ => false

/-- What an execution of `i` from `s` to `t` leaves unchanged: every field but those `i` writes. -/
structure Frame (i : Instr) (s t : State) : Prop where
  memory : writesMemory i = false → t.memory = s.memory
  index : writesIndex i = false → t.I = s.I
  display : writesDisplay i = false → t.display = s.display
  redraw : writesDisplay i = false → t.redrawRequested = s.redrawRequested
  stack : writesStack i = false → t.stack = s.stack
  sp : writesStack i = false → t.SP = s.SP
  dt : writesDT i = false → t.DT = s.DT
  st : writesST i = false → t.ST = s.ST
  keypad : t.keypad = s.keypad
  rndPort : t.rndPort = s.rndPort
  rndCount : drawsByte i = false → t.rndCount = s.rndCount

/-- Taking a fault changes runStatus alone (R198). -/
theorem frame_raise (i : Instr) (s : State) (c : FaultCause) : Frame i s (s.raise c) := by
  constructor <;> simp [State.raise, State.takeFault_eq]

/-- A completed instruction updates the fields it writes by name, and PC and registers. -/
theorem frame_of_completes {i : Instr} {s t : State} (h : Completes s i t) : Frame i s t := by
  cases h
  all_goals
    constructor <;> simp [writesMemory, writesIndex, writesDisplay, writesStack, writesDT, writesST, drawsByte,
      State.advance, State.writeV, State.writeWithFlag, State.countDraw]

theorem exec_frame {i : Instr} {s t : State} (hx : exec i s = .next t) : Frame i s t := by
  rcases exec_cases hx with ⟨c, -, rfl⟩ | ⟨-, h⟩
  · exact frame_raise i s c
  · exact frame_of_completes h

/-! The frame in the statements' terms. -/

namespace Frame
variable {i : Instr} {s t : State} (h : Frame i s t)
include h

theorem memoryKept (hi : writesMemory i = false) : MemoryKept s t := fun a => by
  rw [State.memRead, h.memory hi]
  rfl

theorem stackKept (hi : writesStack i = false) : StackKept s t := ⟨h.sp hi, fun j => by rw [h.stack hi]⟩

theorem timersKept (hd : writesDT i = false) (hs : writesST i = false) : TimersKept s t := ⟨h.dt hd, h.st hs⟩

theorem displayKept (hi : writesDisplay i = false) : DisplayKept s t := by
  refine ⟨fun x y => ?_, h.redraw hi⟩
  rw [State.FB, h.display hi]
  rfl

theorem inputsKept : InputsKept s t := ⟨h.keypad, h.rndPort⟩

end Frame

theorem statusKept_of_no_fault {i : Instr} {s t : State} (hf : faultOf s i = none) (hx : exec i s = .next t) :
    StatusKept s t := by
  obtain ⟨hr, ho, -, -⟩ := exec_of_no_fault hf hx
  exact ⟨ho, hr⟩

/-! ## Registers (R26) -/

/-- A completed instruction keeps every register that it neither names as a destination nor writes as the flag. -/
theorem readV_kept {i : Instr} {s t : State} {y : Reg} (h : Completes s i t) (hd : y ∉ destinations i)
    (hF : y = VF → FlagValue s i = none ∧ ∀ a b n, i ≠ .drw a b n) : t.readV y = s.readV y := by
  cases h
  case ldVxMem x h =>
    have hy : ¬ y ≤ x := by simpa [destinations] using hd
    simp [State.advance, State.readV_loadRegs, State.mem_regsUpTo, hy]
  case drw a b n h =>
    have hy : y ≠ VF := fun e => (hF e).2 a b n rfl
    simp [State.advance, hy]
  case addReg | sub | shr | subn | shl =>
    have hyF : y ≠ VF := fun e => by cases (hF e).1
    have hyx := mt List.mem_singleton.2 hd
    simp [State.advance, State.readV_writeWithFlag, hyF, hyx]
  all_goals simp_all [destinations, State.advance, State.countDraw]

/-! ## The program counter (R29) -/

theorem pcPlus_advance {s u : State} (h : u.PC = s.PC) : PcPlus 2 s u.advance := by
  rw [PcPlus, ← h]
  exact pcPlus_two_advance u

/-- A completed instruction that does not steer PC adds 2 to it. -/
theorem pcPlus_of_completes {i : Instr} {s t : State} (h : Completes s i t) (hi : steersPC i = false) :
    PcPlus 2 s t := by
  cases h
  case ldB | ldMemVx => exact pcPlus_advance (State.storeBytes_PC _ _ _)
  case ldVxMem => exact pcPlus_advance (State.loadRegs_PC _ _ _)
  case ret | jp | call | seImm | sneImm | seReg | sneReg | skp | sknp | ldVxK | blocked => cases hi
  all_goals exact pcPlus_advance rfl

end Sys2Proof.Proofs

/-! SUPPORT. The draw of 40_display.md in the statements' terms: the cells that `Targets` names are the ones the sprite
loop hits, and the collision is a lit cell among them. -/

namespace Sys2Proof.Proofs

open Sys2Proof Sys2Proof.Machine Sys2Proof.Claims

/-- The statements' targets are the cells the loop over the loaded bytes hits (R102). -/
theorem targets_iff (s : State) (x y : Reg) (n : Nat) (cx : Fin 64) (cy : Fin 32) :
    Targets s x y n cx cy ↔
      Canvas.spriteHits (s.readV x).toNat (s.readV y).toNat (s.loadBytes s.addrI n) cx cy = true := by
  rw [Canvas.spriteHits_iff]
  constructor
  · rintro ⟨row, col, hrow, hcol, hx, hy, hbit⟩
    have hlen : row < (s.loadBytes s.addrI n).length := by simpa using hrow
    refine ⟨row, hlen, col, hcol, Fin.ext hx, Fin.ext hy, ?_⟩
    rwa [State.loadBytes_getElem]
  · rintro ⟨row, hlen, col, hcol, hx, hy, hbit⟩
    rw [State.loadBytes_getElem] at hbit
    exact ⟨row, col, by simpa using hlen, hcol, congrArg Fin.val hx, congrArg Fin.val hy, hbit⟩

theorem dataOk_iff (s : State) (n : Nat) : s.dataOk n = true ↔ n = 0 ∨ s.I.toNat + n - 1 ≤ 0xFFF := by
  simp [State.dataOk, State.addrI, inBounds]

theorem exec_drw {s : State} {n : Nat} (x y : Reg) (hd : s.dataOk n = true) :
    exec (.drw x y n) s = .next (((s.setDisplay (s.drawn x y n).display).writeV VF
      (flagByte (s.drawn x y n).collision)).setRedraw true).advance :=
  exec_of_completes (.drw x y n hd)

theorem collision_drawn {s : State} {n : Nat} (x y : Reg) (hn : n < 16) :
    (s.drawn x y n).collision = true ↔ ∃ cx cy, Targets s x y n cx cy ∧ s.FB cx cy = true := by
  have h := Canvas.collision_drawSprite { display := s.display, collision := false } (s.readV x).toNat
    (s.readV y).toNat (s.loadBytes s.addrI n) (by simp; omega)
  simpa [State.drawn, targets_iff, State.FB] using h

section draw
variable {s t : State} {x y : Reg} {n : Nat} (hn : n < 16) (hd : s.dataOk n = true)
  (hx : exec (.drw x y n) s = .next t)

include hd hx in
/-- The cells a draw leaves are the canvas's. -/
theorem FB_drw (cx : Fin 64) (cy : Fin 32) : t.FB cx cy = Display.cell (s.drawn x y n).display cx cy := by
  cases (exec_drw x y hd).symm.trans hx
  rfl

include hd hx in
/-- The flag a draw leaves is the canvas's collision (R103, D8). -/
theorem readV_VF_drw : t.readV VF = flagByte (s.drawn x y n).collision := by
  cases (exec_drw x y hd).symm.trans hx
  simp [State.advance]

include hn hd hx

theorem FB_drw_eq_xor (cx : Fin 64) (cy : Fin 32) :
    t.FB cx cy = (s.FB cx cy ^^
      Canvas.spriteHits (s.readV x).toNat (s.readV y).toNat (s.loadBytes s.addrI n) cx cy) := by
  rw [FB_drw hd hx]
  exact Canvas.cell_drawSprite _ _ _ _ (by simp; omega) cx cy

theorem FB_drw_of_targets {cx : Fin 64} {cy : Fin 32} (h : Targets s x y n cx cy) : t.FB cx cy = !s.FB cx cy := by
  rw [FB_drw_eq_xor hn hd hx, (targets_iff ..).1 h, Bool.xor_true]

theorem FB_drw_of_not_targets {cx : Fin 64} {cy : Fin 32} (h : ¬ Targets s x y n cx cy) :
    t.FB cx cy = s.FB cx cy := by
  rw [targets_iff, Bool.not_eq_true] at h
  rw [FB_drw_eq_xor hn hd hx, h, Bool.xor_false]

theorem readV_VF_drw_hit (h : ∃ cx cy, Targets s x y n cx cy ∧ s.FB cx cy = true) : t.readV VF = 1#8 := by
  rw [readV_VF_drw hd hx, (collision_drawn x y hn).2 h]
  rfl

theorem readV_VF_drw_miss (h : ¬ ∃ cx cy, Targets s x y n cx cy ∧ s.FB cx cy = true) : t.readV VF = 0#8 := by
  rw [← collision_drawn x y hn, Bool.not_eq_true] at h
  rw [readV_VF_drw hd hx, h]
  rfl

omit hn in
/-- A draw goes on, requests a redraw, and keeps all but the display and VF. -/
theorem drw_frame : t.redrawRequested = true ∧ PcPlus 2 s t ∧ OnlyDisplayRegsAndPc [VF] s t := by
  have hf : faultOf s (.drw x y n) = none := by simp [faultOf, hd]
  have hc := completes_of_no_fault hf hx
  have F := exec_frame hx
  have hregs : RegsKept [VF] s t := fun y hy => by
    refine readV_kept hc (by simp [destinations]) (fun e => absurd (List.mem_singleton.2 e) hy)
  refine ⟨?_, pcPlus_of_completes hc rfl, hregs, F.memoryKept rfl, F.index rfl, F.stackKept rfl,
    F.timersKept rfl rfl, F.inputsKept, statusKept_of_no_fault hf hx, F.rndCount rfl⟩
  cases hc
  rfl

end draw

theorem decodeWord_drw (x y : Reg) {n : Nat} (hn : n < 16) :
    decodeWord (wordOfXYN 0xD x.val y.val n) = .ok (.drw x y n) := by
  simp [decodeWord, fieldF_wordOfXYN 0xD x y hn, fieldX_wordOfXYN 0xD x y hn, fieldY_wordOfXYN 0xD x y hn,
    Nat.mod_eq_of_lt hn]

/-- Settles O26: the loop inverts exactly the cells its closed form hits, which are the targets (`targets_iff`), and the
flag is the collision with a lit one. -/
theorem drwInvertsTheTargetedCells : Obligations.DrwInvertsTheTargetedCells := by
  unfold Obligations.DrwInvertsTheTargetedCells
  intro x y n s hn hb
  have hd := (dataOk_iff s n).2 hb
  have hx := exec_drw x y hd
  exact ⟨decodeWord_drw x y hn, _, hx, fun _ _ => FB_drw_of_targets hn hd hx,
    fun _ _ => FB_drw_of_not_targets hn hd hx, readV_VF_drw_hit hn hd hx, readV_VF_drw_miss hn hd hx,
    drw_frame hd hx⟩

/-- Two states with the same coordinates, memory and I have the same targets. -/
theorem targets_congr {s t : State} {x y : Reg} (n : Nat) (hx : t.readV x = s.readV x) (hy : t.readV y = s.readV y)
    (hm : MemoryKept s t) (hi : IndexKept s t) (cx : Fin 64) (cy : Fin 32) :
    Targets t x y n cx cy ↔ Targets s x y n cx cy := by
  have hi : t.I = s.I := hi
  simp only [Targets, hx, hy, hi, hm _]

/-- Settles O27: both draws have the same targets, so a targeted cell is inverted twice and the second draw finds lit
what the first found unlit. -/
theorem drawingTwiceRestoresTheDisplay : Obligations.DrawingTwiceRestoresTheDisplay := by
  unfold Obligations.DrawingTwiceRestoresTheDisplay
  intro x y n s t u hn hb hst hVx hVy htu
  have hds := (dataOk_iff s n).2 hb
  obtain ⟨-, -, -, hmem, hidx, -⟩ := drw_frame hds hst
  have hdt : t.dataOk n = true := (dataOk_iff t n).2 (by rwa [show t.I = s.I from hidx])
  have htar := targets_congr n hVx hVy hmem hidx
  constructor
  · intro cx cy
    by_cases h : Targets s x y n cx cy
    · rw [FB_drw_of_targets hn hdt htu ((htar cx cy).2 h), FB_drw_of_targets hn hds hst h, Bool.not_not]
    · rw [FB_drw_of_not_targets hn hdt htu (mt (htar cx cy).1 h), FB_drw_of_not_targets hn hds hst h]
  · have hlit : (∃ cx cy, Targets t x y n cx cy ∧ t.FB cx cy = true) ↔
        ∃ cx cy, Targets s x y n cx cy ∧ s.FB cx cy = false := by
      refine exists_congr fun cx => exists_congr fun cy => ?_
      rw [htar]
      refine and_congr_right fun h => ?_
      rw [FB_drw_of_targets hn hds hst h, Bool.not_eq_true']
    rw [← hlit]
    refine ⟨fun h1 => ?_, readV_VF_drw_hit hn hdt htu⟩
    by_contra hno
    rw [readV_VF_drw_miss hn hdt htu hno] at h1
    exact absurd h1 (by decide)

end Sys2Proof.Proofs

/-! SUPPORT. When an instruction raises which fault, and the invariant of Safety.lean under steps and transactions. -/

namespace Sys2Proof.Proofs

open Sys2Proof Sys2Proof.Machine Sys2Proof.Claims

/-! ## The fault an instruction raises (R195, R197) -/

/-- `CauseHolds` for an instruction already fetched and decoded. -/
def Raises (s : State) (i : Instr) : FaultCause → Prop
  | .outOfBounds .fetch _ _ => False
  | .outOfBounds .data base len => base = s.I.toNat ∧ len = dataBytes i ∧ 0 < len ∧ 0xFFF < base + len - 1
  | .outOfBounds .keypad base len =>
    ∃ x, (i = .skp x ∨ i = .sknp x) ∧ base = (s.readV x).toNat ∧ 0xF < base ∧ len = 1
  | .stackOverflow sp => (∃ nnn, i = .call nnn) ∧ s.SP.val = 16 ∧ sp = 16
  | .stackUnderflow sp => i = .ret ∧ s.SP.val = 0 ∧ sp = 0
  | .unknownOpcode => False

theorem dataOk_false (s : State) (n : Nat) : s.dataOk n = false ↔ 0 < n ∧ 0xFFF < s.I.toNat + n - 1 :=
  inBounds_false _ _

/-- An instruction's fault is raised on the condition of its cause. -/
theorem raises_of_faultOf {s : State} {i : Instr} {c : FaultCause} (h : faultOf s i = some c) : Raises s i c := by
  cases i <;> simp only [faultOf, reduceCtorEq] at h
  case ret =>
    split at h
    · next h0 => cases h; exact ⟨rfl, h0, h0⟩
    · cases h
  case call nnn =>
    split at h
    · next h16 => cases h; exact ⟨⟨nnn, rfl⟩, h16, h16⟩
    · cases h
  case skp x =>
    split at h
    · next hk => cases h; exact ⟨x, .inl rfl, rfl, hk, rfl⟩
    · cases h
  case sknp x =>
    split at h
    · next hk => cases h; exact ⟨x, .inr rfl, rfl, hk, rfl⟩
    · cases h
  all_goals
    split at h
    · cases h
    · next hd => cases h; exact ⟨rfl, rfl, (dataOk_false _ _).1 (Bool.eq_false_iff.2 hd)⟩

/-- Where the condition of a cause holds, the instruction raises it. -/
theorem faultOf_of_raises {s : State} {i : Instr} {c : FaultCause} (h : Raises s i c) : faultOf s i = some c := by
  match c, h with
  | .outOfBounds .keypad _ _, ⟨x, hi, rfl, hk, rfl⟩ => rcases hi with rfl | rfl <;> simp [faultOf, hk]
  | .stackOverflow _, ⟨⟨nnn, hi⟩, h16, rfl⟩ => simp [hi, faultOf, h16]
  | .stackUnderflow _, ⟨hi, h0, rfl⟩ => simp [hi, faultOf, h0]
  | .outOfBounds .data _ _, ⟨rfl, rfl, h⟩ =>
    have hd := (dataOk_false s (dataBytes i)).2 h
    cases i
    case drw | ldB | ldMemVx | ldVxMem => exact if_neg (Bool.eq_false_iff.1 hd)
    all_goals exact absurd h.1 (Nat.lt_irrefl 0)

theorem faultOf_eq_some_iff (s : State) (i : Instr) (c : FaultCause) : faultOf s i = some c ↔ Raises s i c :=
  ⟨raises_of_faultOf, faultOf_of_raises⟩

/-! ## The invariant under one instruction -/

section inv
variable {i : Instr} {s t : State} (h : Completes s i t)
include h

/-- The two stores stay within 0x000..0xFFF, which they check first (R65). -/
theorem memory_wf_of_completes (hm : s.memory.wf = true) : t.memory.wf = true := by
  cases hw : writesMemory i with
  | false => rwa [(frame_of_completes h).memory hw]
  | true =>
    cases h
    case ldB x hd => exact State.wf_storeBytes s _ _ hm (by simpa using (inBounds_iff _ _).1 hd)
    case ldMemVx x hd => exact State.wf_storeBytes s _ _ hm (by simpa using (inBounds_iff _ _).1 hd)
    all_goals cases hw

/-- From an instruction within memory PC goes at most 4 on, to a 12-bit address, or behind a call (R30). -/
theorem PC_le_of_completes (hwf : i.wf = true) (hpc : s.PC.toNat ≤ 0xFFE)
    (hst : ∀ j : Fin 16, (s.stack[j.val]).toNat ≤ 0xFFE) : t.PC.toNat ≤ 0x1002 := by
  have hskip : ∀ c, (s.skipIf c).PC.toNat ≤ 0x1002 := fun c => by
    rw [State.skipIf_PC]
    cases c <;> simp only [Bool.false_eq_true, if_true, if_false, BitVec.toNat_add, BitVec.toNat_ofNat] <;> omega
  cases hs : steersPC i with
  | false =>
    have hp : t.PC.toNat = (s.PC.toNat + 2) % 65536 := pcPlus_of_completes h hs
    omega
  | true =>
    cases h
    case jp nnn | call nnn _ =>
      have : nnn.toNat < 4096 := by simpa [Instr.wf, Word.isAddress12] using hwf
      simp only [State.setPC_PC]
      omega
    case ret h0 =>
      have hslot := hst ⟨s.SP.val - 1, by omega⟩
      simp only [State.setPC_PC, BitVec.toNat_add, BitVec.toNat_ofNat] at hslot ⊢
      omega
    case ldVxK x k _ =>
      have hp : (s.writeV x (keyByte k)).advance.PC.toNat = (s.PC.toNat + 2) % 65536 := pcPlus_advance rfl
      omega
    case blocked => omega
    case seImm | sneImm | seReg | sneReg | skp | sknp => exact hskip _
    all_goals cases hs

/-- A call pushes its own address (D7); every other slot stays (R34, D28). -/
theorem stack_le_of_completes (hpc : s.PC.toNat ≤ 0xFFE) (hst : ∀ j : Fin 16, (s.stack[j.val]).toNat ≤ 0xFFE)
    (j : Fin 16) : (t.stack[j.val]).toNat ≤ 0xFFE := by
  cases hs : writesStack i with
  | false => rw [(frame_of_completes h).stack hs]; exact hst j
  | true =>
    cases h
    case ret => exact hst j
    case call =>
      simp only [State.setPC_stack, State.setSP_stack, State.setStack_stack, Vector.getElem_set]
      split
      · exact hpc
      · exact hst j
    all_goals cases hs

end inv

/-! ## The fault record (R197, R198) -/

/-- What a fault record speaks of: PC, I, SP and the opcode latch. -/
theorem statusOk_congr {s t : State} (hr : t.runStatus = s.runStatus) (hpc : t.PC = s.PC) (hi : t.I = s.I)
    (hsp : t.SP = s.SP) (ho : t.currentOpcode = s.currentOpcode) (h : s.statusOk) : t.statusOk := by
  simpa only [State.statusOk, FaultRecord.agrees, hr, hpc, hi, hsp, ho] using h

theorem statusOk_running {s : State} (h : s.runStatus = .running) : s.statusOk := by
  rw [State.statusOk, h]
  trivial

theorem dataBytes_le {i : Instr} (h : i.wf = true) : dataBytes i ≤ 16 := by
  cases i
  case drw x y n =>
    have hn : n < 16 := by simpa [Instr.wf, isNibble] using h
    exact hn.le
  case ldMemVx x | ldVxMem x => exact x.isLt
  all_goals simp [dataBytes]

/-- The record of an instruction's fault agrees with the state that holds it. -/
theorem statusOk_raise {s : State} {i : Instr} {c : FaultCause} (hwf : i.wf = true) (h : faultOf s i = some c) :
    (s.raise c).statusOk := by
  match c, raises_of_faultOf h with
  | .outOfBounds .data _ _, ⟨rfl, rfl, hpos, hend⟩ => exact ⟨rfl, rfl, rfl, hpos, dataBytes_le hwf, hend⟩
  | .outOfBounds .keypad _ _, ⟨x, _, rfl, hk, rfl⟩ =>
    exact ⟨rfl, rfl, hk, Nat.le_of_lt_succ (s.readV x).isLt, rfl⟩
  | .stackOverflow _, ⟨_, h16, rfl⟩ => exact ⟨rfl, rfl, rfl, h16⟩
  | .stackUnderflow _, ⟨_, h0, rfl⟩ => exact ⟨rfl, rfl, rfl, h0⟩

/-! ## The invariant under a step -/

/-- A state that has the parts the invariant speaks of from a state that meets it. -/
theorem inv_congr {s t : State} (h : s.Inv) (hm : t.memory.wf = true) (hr : t.runStatus = s.runStatus)
    (hpc : t.PC = s.PC) (hi : t.I = s.I) (hst : t.stack = s.stack) (hsp : t.SP = s.SP)
    (ho : t.currentOpcode = s.currentOpcode) : t.Inv where
  memory := hm
  pc := hpc ▸ h.pc
  stack := hst ▸ h.stack
  status := statusOk_congr hr hpc hi hsp ho h.status

/-- Settles O16: of the four ends of a step (`step_ends`) three take a fault whose record is true, and the fourth runs
an instruction within memory, which keeps each part of the invariant. -/
theorem stepKeepsTheInvariant : Obligations.StepKeepsTheInvariant := by
  unfold Obligations.StepKeepsTheInvariant
  intro s t hs hstep
  rcases step_ends hstep with ⟨hf, rfl⟩ | ⟨w, hf, hd, rfl⟩ | ⟨w, i, c, hf, hd, hc, rfl⟩ | ⟨w, i, hf, hd, hc, hx, hr, -⟩
  case inl =>
    exact ⟨hs.memory, hs.pc, hs.stack, rfl, rfl, rfl, rfl, State.fetchWord_none.1 hf⟩
  case inr.inl => exact ⟨hs.memory, hs.pc, hs.stack, rfl, rfl, hd⟩
  case inr.inr.inl => exact ⟨hs.memory, hs.pc, hs.stack, statusOk_raise (decodeWord_wf hd) hc⟩
  case inr.inr.inr =>
    have h := completes_of_no_fault hc hx
    have hpc : s.PC.toNat ≤ 0xFFE := by
      have := (State.fetchWord_some hf).1
      omega
    exact ⟨memory_wf_of_completes h hs.memory, PC_le_of_completes h (decodeWord_wf hd) hpc hs.stack,
      stack_le_of_completes h hpc hs.stack, statusOk_running hr⟩

/-! ## The invariant under the host's transactions -/

theorem inv_reset : State.reset.Inv := by
  refine ⟨Memory.wf_nil, by decide, fun j => ?_, trivial⟩
  simp [State.reset]

/-- Settles O15: memory lists nothing, the slots are 0, PC is 0x200 (`inv_reset`). -/
theorem resetMeetsTheInvariant : Obligations.ResetMeetsTheInvariant := inv_reset

/-- A step of the host, where the core is running: a step with the byte on the port, which is then taken back. -/
theorem stepWith_running {s : State} (rnd : Byte) (hr : s.runStatus = .running) :
    ∃ t, step (s.setRndPort (some rnd)) = .next t ∧ stepWith rnd s = t.setRndPort s.rndPort := by
  obtain ⟨t, ht⟩ := step_next_of_running (s := s.setRndPort (some rnd)) hr
  exact ⟨t, ht, by rw [stepWith, ht]⟩

/-- A step of the host, where the core is halted, changes nothing (R200). -/
theorem stepWith_halted {s : State} {r : FaultRecord} (rnd : Byte) (hr : s.runStatus = .halted r) :
    stepWith rnd s = s := by
  rw [stepWith, step_halted (s := s.setRndPort (some rnd)) hr]

theorem inv_setRndPort {s : State} (h : s.Inv) (p : Option Byte) : (s.setRndPort p).Inv :=
  inv_congr h h.memory rfl rfl rfl rfl rfl rfl

theorem inv_stepWith {s : State} (h : s.Inv) (rnd : Byte) : (stepWith rnd s).Inv := by
  cases hr : s.runStatus with
  | halted r => rwa [stepWith_halted rnd hr]
  | running =>
    obtain ⟨t, ht, heq⟩ := stepWith_running rnd hr
    rw [heq]
    exact inv_setRndPort (stepKeepsTheInvariant _ t (inv_setRndPort h _) ht) _

theorem inv_initCore (font : Vector Byte 80) (s : State) : (initCore font s).Inv := by
  refine inv_congr inv_reset ?_ ?_ ?_ ?_ ?_ ?_ ?_
  · exact State.wf_storeBytes _ _ _ Memory.wf_nil (by simp [Config.fontBase, Config.memSize])
  all_goals simp [initCore]

theorem inv_loadProgram {s : State} (h : s.Inv) (bytes : List Byte) (readOk : Bool) :
    (loadProgram bytes readOk s).1.Inv := by
  unfold loadProgram
  split
  · exact h
  · split
    · exact h
    · next hlen =>
      have hfit : Config.progBase + bytes.length ≤ Config.memSize := by
        simp only [Config.maxRom, Config.progBase, Config.memSize] at hlen ⊢
        omega
      refine inv_congr h (State.wf_storeBytes _ _ _ h.memory hfit) ?_ ?_ ?_ ?_ ?_ ?_
      all_goals simp

theorem inv_transact {s : State} (h : s.Inv) (tr : Transaction) : (transact tr s).1.Inv := by
  cases tr
  case initCore font => exact inv_initCore font s
  case loadProgram bytes readOk => exact inv_loadProgram h bytes readOk
  case step rnd => exact inv_stepWith h rnd
  case tick | setKeypad | clearRedraw => exact inv_congr h h.memory rfl rfl rfl rfl rfl rfl
  case read => exact h

theorem inv_schedule (trs : List Transaction) : ∀ {s : State}, s.Inv → (schedule trs s).Inv := by
  induction trs with
  | nil => exact id
  | cons tr rest ih => exact fun h => ih (inv_transact h tr)

/-- Settles O17: transaction by transaction (`inv_transact`), and along a schedule by induction. -/
theorem transactionsKeepTheInvariant : Obligations.TransactionsKeepTheInvariant := by
  unfold Obligations.TransactionsKeepTheInvariant
  exact fun tr trs s h => ⟨inv_transact h tr, inv_schedule trs h⟩

end Sys2Proof.Proofs

/-! SUPPORT. Who may write what (10_state.md): the whole-machine rules, from the frame of every instruction. -/

namespace Sys2Proof.Proofs

open Sys2Proof Sys2Proof.Machine Sys2Proof.Claims

/-- A core that is running after an instruction took no fault. -/
theorem no_fault_of_running {i : Instr} {s t : State} (hx : exec i s = .next t) (ht : t.runStatus = .running) :
    faultOf s i = none ∧ Completes s i t := by
  rcases exec_cases hx with ⟨c, -, rfl⟩ | h
  · cases ht
  · exact h

/-! ## The program counter (R29) -/

/-- A skip on `c` moves PC by 4 where `P` holds and by 2 where it does not. -/
theorem pcPlus_skipIf (s : State) {c : Bool} {P : Prop} [Decidable P] (hc : c = true ↔ P) :
    if P then PcPlus 4 s (s.skipIf c) else PcPlus 2 s (s.skipIf c) := by
  split
  · next h => rw [hc.2 h]; exact pcPlus_four_skip s
  · next h => rw [Bool.eq_false_iff.2 (mt hc.1 h)]; exact pcPlus_two_advance s

theorem keypad_ne_zero_of_lowestKey {s : State} {k : Reg} (h : s.lowestKey = some k) : s.keypad ≠ 0#16 := by
  intro h0
  have hk := (State.lowestKey_some h).1
  rw [(State.keyDown_all_false s).2 h0 k] at hk
  cases hk

theorem lowestKey_eq_none_iff (s : State) : s.lowestKey = none ↔ s.keypad = 0#16 :=
  (State.lowestKey_none s).trans (State.keyDown_all_false s)

theorem nextPc_of_completes {i : Instr} {s t : State} (h : Completes s i t) : NextPc s t i := by
  cases h
  case jp | call => rfl
  case ret h0 =>
    refine ⟨⟨s.SP.val - 1, by omega⟩, Nat.succ_pred_eq_of_ne_zero h0, ?_⟩
    simp [BitVec.toNat_add]
  case seImm | seReg => exact pcPlus_skipIf s beq_iff_eq
  case sneImm | sneReg => exact pcPlus_skipIf s bne_iff_ne
  case skp x k hk => exact pcPlus_skipIf s (by rw [← hk]; rfl)
  case sknp x k hk => exact pcPlus_skipIf s (by simp [State.keyDown, ← hk])
  case ldVxK x k hk => exact (if_neg (keypad_ne_zero_of_lowestKey hk)).mpr (pcPlus_advance rfl)
  case blocked x hk => exact (if_pos ((lowestKey_eq_none_iff s).1 hk)).mpr rfl
  case ldB | ldMemVx => exact pcPlus_advance (State.storeBytes_PC _ _ _)
  case ldVxMem => exact pcPlus_advance (State.loadRegs_PC _ _ _)
  all_goals exact pcPlus_advance rfl

/-- Settles O13: a core still running took no fault, and each completed instruction sets PC as the table says
(`nextPc_of_completes`). -/
theorem completedStepsMovePcByTheTable : Obligations.CompletedStepsMovePcByTheTable := by
  unfold Obligations.CompletedStepsMovePcByTheTable
  intro i s t hx _ ht
  exact nextPc_of_completes (no_fault_of_running hx ht).2

/-! ## Registers and VF (R26, R42) -/

/-- Settles O18: a fault changes no register, and a completed instruction keeps every other register (`readV_kept`). -/
theorem registersChangeOnlyAsDestinations : Obligations.RegistersChangeOnlyAsDestinations := by
  unfold Obligations.RegistersChangeOnlyAsDestinations
  intro i s t y hx hne
  rcases exec_cases hx with ⟨c, -, rfl⟩ | ⟨-, h⟩
  · exact absurd rfl hne
  · by_contra hno
    simp only [not_or, not_and, not_exists] at hno
    obtain ⟨hd, hF⟩ := hno
    refine hne (readV_kept h hd fun e => ?_)
    obtain ⟨hflag, hdrw⟩ := hF e
    exact ⟨by simpa using hflag, hdrw⟩

theorem readV_VF_writeWithFlag (s : State) (x : Reg) (v : Byte) (b : Bool) :
    (s.writeWithFlag x v b).advance.readV VF = if b then 1#8 else 0#8 := by
  simp [State.advance, State.readV_writeWithFlag, flagByte]

/-- A flag writer leaves its flag in VF, also where VF is its destination (R132, D8). -/
theorem readV_VF_of_flagValue {i : Instr} {s t : State} {b : Bool} (h : Completes s i t)
    (hb : FlagValue s i = some b) : t.readV VF = if b then 1#8 else 0#8 := by
  cases h
  case addReg | sub | shr | subn | shl =>
    cases hb
    exact readV_VF_writeWithFlag _ _ _ _
  all_goals cases hb

theorem dataOk_of_completes_drw {x y : Reg} {n : Nat} {s t : State} (h : Completes s (.drw x y n) t) :
    s.dataOk n = true := by
  cases h
  assumption

/-- Settles O19: the flag writers by `readV_VF_of_flagValue`, the draw by its collision, and the others keep VF
(`readV_kept`). -/
theorem flagIsWrittenExactlyAsListed : Obligations.FlagIsWrittenExactlyAsListed := by
  unfold Obligations.FlagIsWrittenExactlyAsListed
  intro i s t hwf hx _ ht
  have h := (no_fault_of_running hx ht).2
  refine ⟨fun b => readV_VF_of_flagValue h, ?_, fun hn hdrw hd => readV_kept h hd fun _ => ⟨hn, hdrw⟩⟩
  rintro x y n rfl
  have hd := dataOk_of_completes_drw h
  have hn : n < 16 := by simpa [Instr.wf, isNibble] using hwf
  exact ⟨readV_VF_drw_hit hn hd hx, readV_VF_drw_miss hn hd hx⟩

/-! ## I, memory and the display (R27, R64, R37) -/

theorem toNat_zext (b : Byte) : b.zext.toNat = b.toNat := by
  simp only [Byte.zext, BitVec.toNat_setWidth]
  omega

theorem toNat_addI (i : Word) (b : Byte) : (i + b.zext).toNat = (i.toNat + b.toNat) % 65536 := by
  rw [BitVec.toNat_add, toNat_zext]

theorem toNat_fontAddress (b : Byte) :
    (BitVec.ofNat 16 (Config.fontBase + 5 * b.toNat)).toNat = 0x050 + 5 * b.toNat := by
  rw [BitVec.toNat_ofNat, Config.fontBase]
  omega

/-- Settles O20: the three writers by their meaning, every other instruction by its frame. -/
theorem indexChangesOnlyByItsWriters : Obligations.IndexChangesOnlyByItsWriters := by
  unfold Obligations.IndexChangesOnlyByItsWriters
  intro i s t hx
  cases i
  case ldI => cases hx; rfl
  case addI => cases hx; exact toNat_addI _ _
  case ldF => cases hx; exact toNat_fontAddress _
  all_goals exact (exec_frame hx).index rfl

/-- A store changes only the bytes it names, all within 0x000..0xFFF. -/
theorem memRead_storeBytes_ne {s : State} {bs : List Byte} {a : Nat} (hd : s.dataOk bs.length = true)
    (h : (s.storeBytes s.addrI bs).memRead a ≠ s.memRead a) :
    s.I.toNat ≤ a ∧ a < s.I.toNat + bs.length ∧ a ≤ 0xFFF := by
  have hin : s.I.toNat ≤ a ∧ a < s.I.toNat + bs.length := by
    by_contra hout
    exact h (State.memRead_storeBytes_outside s _ bs a (by simp only [State.addrI]; omega))
  have := (dataOk_iff s _).1 hd
  omega

/-- Settles O21: an instruction that is no store keeps memory, and a store changes the bytes it names
(`memRead_storeBytes_ne`). -/
theorem memoryChangesOnlyByStores : Obligations.MemoryChangesOnlyByStores := by
  unfold Obligations.MemoryChangesOnlyByStores
  intro i s t a hx hne
  cases hw : writesMemory i with
  | false => exact absurd ((exec_frame hx).memoryKept hw a) hne
  | true =>
    rcases exec_cases hx with ⟨c, -, rfl⟩ | ⟨-, h⟩
    · exact absurd rfl hne
    · cases h
      case ldB x hd =>
        obtain ⟨hlo, hhi, hend⟩ := memRead_storeBytes_ne (bs := bcdDigits (s.readV x)) (by simpa using hd) hne
        rw [State.bcdDigits_length] at hhi
        exact .inl ⟨x, rfl, hlo, by omega, hend⟩
      case ldMemVx x hd =>
        obtain ⟨hlo, hhi, hend⟩ := memRead_storeBytes_ne (bs := s.blockOf x) (by simpa using hd) hne
        rw [State.blockOf_length] at hhi
        exact .inr ⟨x, rfl, hlo, by omega, hend⟩
      all_goals cases hw

theorem redraw_of_completes {i : Instr} {s t : State} (h : Completes s i t) (hi : writesDisplay i = true) :
    t.redrawRequested = true := by
  cases h
  case cls | drw => rfl
  all_goals cases hi

theorem writesDisplay_eq_true_iff (i : Instr) : writesDisplay i = true ↔ i = .cls ∨ ∃ x y n, i = .drw x y n := by
  cases i <;> simp [writesDisplay]

/-- Settles O22: an instruction that writes no cell keeps the display, one that does requests a redraw when it
completes, and a fault changes neither. -/
theorem displayChangesOnlyByItsInstructions : Obligations.DisplayChangesOnlyByItsInstructions := by
  unfold Obligations.DisplayChangesOnlyByItsInstructions
  intro i s t hx
  refine ⟨fun ⟨hcls, hdrw⟩ => ?_, fun hi _ ht => ?_, fun hs => ?_⟩
  · refine (exec_frame hx).displayKept (Bool.eq_false_iff.2 fun hw => ?_)
    rcases (writesDisplay_eq_true_iff i).1 hw with h | ⟨x, y, n, h⟩
    · exact hcls h
    · exact hdrw x y n h
  · exact redraw_of_completes (no_fault_of_running hx ht).2 ((writesDisplay_eq_true_iff i).2 hi)
  · cases hw : writesDisplay i with
    | false => rw [(exec_frame hx).redraw hw, hs]
    | true =>
      rcases exec_cases hx with ⟨c, -, rfl⟩ | ⟨-, h⟩
      · exact hs
      · exact redraw_of_completes h hw

/-! ## The keypad and the call stack (R31 to R34, R39) -/

theorem writesStack_eq_true_iff (i : Instr) : writesStack i = true ↔ i = .ret ∨ ∃ nnn, i = .call nnn := by
  cases i <;> simp [writesStack]

theorem stack_of_ret {s t : State} (hx : exec .ret s = .next t) : t.stack = s.stack := by
  rcases exec_cases hx with ⟨c, -, rfl⟩ | ⟨-, h⟩
  · rfl
  · cases h
    rfl

/-- Settles O24: the frame keeps the inputs, and the stack outside its two writers; a return moves SP alone. -/
theorem keypadAndStackChangeOnlyByTheirWriters : Obligations.KeypadAndStackChangeOnlyByTheirWriters := by
  unfold Obligations.KeypadAndStackChangeOnlyByTheirWriters
  intro i s t hx
  refine ⟨(exec_frame hx).inputsKept, fun ⟨hret, hcall⟩ => ?_, ?_⟩
  · refine (exec_frame hx).stackKept (Bool.eq_false_iff.2 fun hw => ?_)
    rcases (writesStack_eq_true_iff i).1 hw with h | ⟨nnn, h⟩
    · exact hret h
    · exact hcall nnn h
  · rintro rfl j
    rw [stack_of_ret hx]

end Sys2Proof.Proofs

/-! SUPPORT. What no instruction reads: the sound timer, and, but for CXNN, the random port. -/

namespace Sys2Proof.Proofs

open Sys2Proof Sys2Proof.Machine Sys2Proof.Claims

/-! ## Two states that differ in ST and the random port -/

/-- The state with other values in ST and rndPort. -/
def withPorts (s : State) (v : Byte) (p : Option Byte) : State := { s with ST := v, rndPort := p }

section withPorts
variable (s : State) (v : Byte) (p : Option Byte)

theorem loadBytes_withPorts (a n : Nat) : (withPorts s v p).loadBytes a n = s.loadBytes a n := by
  induction n generalizing a with
  | zero => rfl
  | succ n ih => rw [State.loadBytes, State.loadBytes, ih]; rfl

theorem storeBytes_withPorts (a : Nat) (bs : List Byte) :
    (withPorts s v p).storeBytes a bs = withPorts (s.storeBytes a bs) v p := by
  induction bs generalizing s a with
  | nil => rfl
  | cons b rest ih => exact ih (s.memWrite a b) (a + 1)

theorem loadRegs_withPorts (a : Nat) (l : List Reg) :
    (withPorts s v p).loadRegs a l = withPorts (s.loadRegs a l) v p := by
  induction l generalizing s with
  | nil => rfl
  | cons k rest ih => exact ih (s.writeV k (s.memRead (a + k.val)))

theorem drawn_withPorts (x y : Reg) (n : Nat) : (withPorts s v p).drawn x y n = s.drawn x y n := by
  rw [State.drawn, State.drawn, loadBytes_withPorts]
  rfl

theorem skipIf_withPorts (c : Bool) : (withPorts s v p).skipIf c = withPorts (s.skipIf c) v p := by cases c <;> rfl

theorem faultOf_withPorts (i : Instr) : faultOf (withPorts s v p) i = faultOf s i := by cases i <;> rfl

end withPorts

/-- The value in ST after an instruction that found `v` there and left `t`: FX18 alone writes one. -/
def newST (i : Instr) (t : State) (v : Byte) : Byte := bif writesST i then t.ST else v

theorem completes_withPorts {i : Instr} {s t : State} {p : Option Byte} (v : Byte)
    (hp : drawsByte i = true → (withPorts s v p).rndByte = s.rndByte) (h : Completes s i t) :
    Completes (withPorts s v p) i (withPorts t (newST i t v) p) := by
  cases h
  case rnd x nn =>
    have h := Completes.rnd (s := withPorts s v p) x nn
    rwa [hp rfl] at h
  case drw x y n hd =>
    have h := Completes.drw (s := withPorts s v p) x y n hd
    rwa [drawn_withPorts] at h
  case ldB x hd =>
    have h := Completes.ldB (s := withPorts s v p) x hd
    rwa [storeBytes_withPorts] at h
  case ldMemVx x hd =>
    have h := Completes.ldMemVx (s := withPorts s v p) x hd
    rwa [storeBytes_withPorts] at h
  case ldVxMem x hd =>
    have h := Completes.ldVxMem (s := withPorts s v p) x hd
    rwa [loadRegs_withPorts] at h
  case seImm | sneImm | seReg | sneReg | skp | sknp =>
    refine skipIf_withPorts s v p _ ▸ ?_
    constructor <;> assumption
  all_goals constructor <;> assumption

theorem newST_of_fault {i : Instr} {s t : State} {c : FaultCause} (h : faultOf s i = some c) (v : Byte) :
    newST i t v = v := by
  cases i
  case ldStVx => cases h
  all_goals rfl

/-- An instruction does alike in both states, where the random byte it may read is the same. -/
theorem exec_withPorts {i : Instr} {s t : State} {p : Option Byte} (v : Byte)
    (hp : drawsByte i = true → (withPorts s v p).rndByte = s.rndByte) (hx : exec i s = .next t) :
    exec i (withPorts s v p) = .next (withPorts t (newST i t v) p) := by
  rcases exec_cases hx with ⟨c, hc, rfl⟩ | ⟨-, h⟩
  · rw [newST_of_fault hc]
    exact exec_of_fault ((faultOf_withPorts s v p i).trans hc)
  · exact exec_of_completes (completes_withPorts v hp h)

/-! ## The timers (R35, R210) -/

theorem toNat_countDown (b : Byte) : (countDown b).toNat = b.toNat - 1 := by
  unfold countDown
  split
  · next h => simp [h]
  · next h =>
    have h0 : b.toNat ≠ 0 := fun e => h (BitVec.eq_of_toNat_eq e)
    rw [BitVec.toNat_sub, BitVec.toNat_ofNat]
    omega

/-- Settles O23: each timer has one writer (`Frame.dt`, `Frame.st`), no instruction reads ST (`exec_withPorts`), and a
Tick counts both down. -/
theorem timersAreReadAndWrittenAsListed : Obligations.TimersAreReadAndWrittenAsListed := by
  unfold Obligations.TimersAreReadAndWrittenAsListed
  refine ⟨fun i s t hx => ⟨?dt, ?st⟩, fun x s => ?reads, fun i s t v hx => ?blind, fun s => ?tick⟩
  case dt =>
    cases i
    case ldDtVx => cases hx; rfl
    all_goals exact (exec_frame hx).dt rfl
  case st =>
    cases i
    case ldStVx => cases hx; rfl
    all_goals exact (exec_frame hx).st rfl
  case reads => exact ⟨_, rfl, by simp [State.advance]⟩
  case blind =>
    have h : exec i (withPorts s v s.rndPort) = .next (withPorts t (newST i t v) t.rndPort) := by
      rw [(exec_frame hx).rndPort]
      exact exec_withPorts v (fun _ => rfl) hx
    cases i
    case ldStVx => cases hx; rfl
    all_goals exact h
  case tick => exact ⟨toNat_countDown s.DT, toNat_countDown s.ST⟩

theorem soundActive_eq (s : State) : s.soundActive = (s.ST != 0#8) := rfl

theorem soundActive_congr {s t : State} (h : t.ST = s.ST) : t.soundActive = s.soundActive := by
  rw [soundActive_eq, soundActive_eq, h]

/-- Settles O54: `sound_active` is a function of ST, which FX18 and Tick alone write. -/
theorem soundFollowsTheSoundTimer : Obligations.SoundFollowsTheSoundTimer := by
  unfold Obligations.SoundFollowsTheSoundTimer
  refine ⟨?rises, ?falls, fun s h => ?expires, fun s h => ?stays, fun i s t hx hi => ?others⟩
  case rises =>
    intro x s t hx h0 hx0
    cases hx
    exact ⟨by simp [soundActive_eq, h0], bne_iff_ne.2 hx0⟩
  case falls =>
    intro x s t hx h0 hx0
    cases hx
    exact ⟨bne_iff_ne.2 h0, bne_eq_false_iff_eq.2 hx0⟩
  case expires =>
    refine ⟨by simp [soundActive_eq, h], bne_eq_false_iff_eq.2 ?_⟩
    exact BitVec.eq_of_toNat_eq ((toNat_countDown s.ST).trans (by simp [h]))
  case stays =>
    refine bne_iff_ne.2 fun h0 => ?_
    have hc : (countDown s.ST).toNat = 0 := congrArg BitVec.toNat h0
    rw [toNat_countDown] at hc
    omega
  case others =>
    refine soundActive_congr ((exec_frame hx).st ?_)
    cases i
    case ldStVx x => exact absurd rfl (hi x)
    all_goals rfl

end Sys2Proof.Proofs

/-! SUPPORT. The Step transaction: fetch, the latch, faults, outcomes and the random byte (30_encoding.md R89,
60_exceptions.md R195 to R203). -/

namespace Sys2Proof.Proofs

open Sys2Proof Sys2Proof.Machine Sys2Proof.Claims

/-! ## Fetch and decode (R61, R62) -/

/-- A fetch in bounds reads the two bytes at PC, big-endian. -/
theorem fetchWord_eq_some {s : State} (hpc : s.PC.toNat + 1 ≤ 0xFFF) :
    s.fetchWord = some (wordOfBytes (s.memRead s.PC.toNat) (s.memRead (s.PC.toNat + 1))) :=
  if_pos ((inBounds_two _).2 hpc)

theorem fetchWord_of_bytes {s : State} {w : Word} (hpc : s.PC.toNat + 1 ≤ 0xFFF)
    (hw : w.toNat = (s.memRead s.PC.toNat).toNat * 256 + (s.memRead (s.PC.toNat + 1)).toNat) :
    s.fetchWord = some w := by
  rw [fetchWord_eq_some hpc]
  exact congrArg some (BitVec.eq_of_toNat_eq ((toNat_wordOfBytes _ _).trans hw.symm))

theorem step_of_decodes {s : State} {w : Word} {i : Instr} (hr : s.runStatus = .running) (hf : s.fetchWord = some w)
    (hd : decodeWord w = .ok i) : step s = exec i (s.setOpcode w) :=
  (step_word hr hf).trans (runWord_ok hd)

/-- Settles O7: the fetch reads that word (`fetchWord_of_bytes`), and the step executes what it decodes to. -/
theorem stepRunsTheDecodedInstruction : Obligations.StepRunsTheDecodedInstruction := by
  unfold Obligations.StepRunsTheDecodedInstruction
  exact fun s w i hr hpc hw hd => step_of_decodes hr (fetchWord_of_bytes hpc hw) hd

/-- Settles O8: the fetch fails past 0xFFF, and R85's words are the rejected ones (`listedWordsAreUnknownOpcodes`). -/
theorem failedFetchAndDecodeHalt : Obligations.FailedFetchAndDecodeHalt := by
  unfold Obligations.FailedFetchAndDecodeHalt
  refine ⟨fun s hr hpc => step_fetch_fault hr (State.fetchWord_none.2 hpc), fun s w hr hpc hw hu => ?_⟩
  have hd := (listedWordsAreUnknownOpcodes w).2 hu
  exact (step_word hr (fetchWord_of_bytes hpc hw)).trans (runWord_error hd)

/-- Settles O9: of the four ends of a step the three that halt take a fault on the state the fetch left. -/
theorem faultingStepIsPrecise : Obligations.FaultingStepIsPrecise := by
  unfold Obligations.FaultingStepIsPrecise
  intro s t r hstep ht
  rcases step_ends hstep with ⟨hf, rfl⟩ | ⟨w, hf, -, rfl⟩ | ⟨w, i, c, hf, -, -, rfl⟩ | ⟨w, i, -, -, -, -, hrun, -⟩
  case inr.inr.inr => rw [hrun] at ht; cases ht
  all_goals
    cases ht
    rw [hf]
    exact ⟨rfl, rfl, rfl⟩

/-! ## The causes (R195) -/

theorem executes_iff {s : State} {w : Word} {i : Instr} (hf : s.fetchWord = some w) (hd : decodeWord w = .ok i)
    (j : Instr) : Executes s j ↔ i = j := by
  constructor
  · rintro ⟨w', hf', hd'⟩
    rw [hf] at hf'
    cases hf'
    rw [hd] at hd'
    cases hd'
    rfl
  · rintro rfl
    exact ⟨w, hf, hd⟩

theorem not_executes_of_no_fetch {s : State} (hf : s.fetchWord = none) (j : Instr) : ¬ Executes s j := by
  rintro ⟨w, hf', -⟩
  rw [hf] at hf'
  cases hf'

theorem not_executes_of_unknown {s : State} {w : Word} {r : Reject} (hf : s.fetchWord = some w)
    (hd : decodeWord w = .error r) (j : Instr) : ¬ Executes s j := by
  rintro ⟨w', hf', hd'⟩
  rw [hf] at hf'
  cases hf'
  rw [hd] at hd'
  cases hd'

/-- A fetch out of bounds is the only cause where it occurs. -/
theorem causeHolds_of_no_fetch {s : State} (hf : s.fetchWord = none) (c : FaultCause) :
    CauseHolds s c ↔ .outOfBounds .fetch s.PC.toNat 2 = c := by
  have hpc := State.fetchWord_none.1 hf
  have hno := not_executes_of_no_fetch hf
  match c with
  | .outOfBounds .fetch base len =>
    simp only [CauseHolds, FaultCause.outOfBounds.injEq, true_and]
    exact ⟨fun ⟨_, hb, hl⟩ => ⟨hb.symm, hl.symm⟩, fun ⟨hb, hl⟩ => ⟨hpc, hb.symm, hl.symm⟩⟩
  | .outOfBounds .data _ _ | .outOfBounds .keypad _ _ | .stackOverflow _ | .stackUnderflow _ => simp [CauseHolds, hno]
  | .unknownOpcode => simp [CauseHolds, hf]

/-- An unknown word is the only cause where it is fetched. -/
theorem causeHolds_of_unknown {s : State} {w : Word} (hf : s.fetchWord = some w)
    (hd : decodeWord w = .error (.unknownOpcode w)) (c : FaultCause) : CauseHolds s c ↔ .unknownOpcode = c := by
  have hpc := (State.fetchWord_some hf).1
  have hno := not_executes_of_unknown hf hd
  match c with
  | .outOfBounds .fetch _ _ => simp [CauseHolds]; omega
  | .outOfBounds .data _ _ | .outOfBounds .keypad _ _ | .stackOverflow _ | .stackUnderflow _ => simp [CauseHolds, hno]
  | .unknownOpcode => simp [CauseHolds, hf, hd]

/-- Where a word decodes, the causes are those of its instruction. -/
theorem causeHolds_iff_faultOf {s : State} {w : Word} {i : Instr} (hf : s.fetchWord = some w)
    (hd : decodeWord w = .ok i) (c : FaultCause) : CauseHolds s c ↔ faultOf (s.setOpcode w) i = some c := by
  have hpc := (State.fetchWord_some hf).1
  have hex := executes_iff hf hd
  rw [faultOf_eq_some_iff]
  match c with
  | .outOfBounds .fetch _ _ => simp [CauseHolds, Raises]; omega
  | .outOfBounds .data _ _ | .outOfBounds .keypad _ _ | .stackOverflow _ | .stackUnderflow _ =>
    simp [CauseHolds, Raises, hex]
  | .unknownOpcode => simp [CauseHolds, Raises, hf, hd]

theorem halted_raise_iff (s : State) (o : Option Word) (c d : FaultCause) :
    (∃ r, (s.takeFault c o).runStatus = .halted r ∧ r.cause = d) ↔ c = d := by
  constructor
  · rintro ⟨r, hr, rfl⟩
    cases hr
    rfl
  · rintro rfl
    exact ⟨_, rfl, rfl⟩

/-- Settles O10: at each end of a step the causes that hold are the one it halted with, and none where it went on. -/
theorem faultsAreExactlyTheListedCauses : Obligations.FaultsAreExactlyTheListedCauses := by
  unfold Obligations.FaultsAreExactlyTheListedCauses
  intro s t c hstep
  rcases step_ends hstep with ⟨hf, rfl⟩ | ⟨w, hf, hd, rfl⟩ | ⟨w, i, d, hf, hd, hc, rfl⟩ |
    ⟨w, i, hf, hd, hc, -, hrun, -⟩
  case inl => exact (halted_raise_iff ..).trans (causeHolds_of_no_fetch hf c).symm
  case inr.inl => exact (halted_raise_iff ..).trans (causeHolds_of_unknown hf hd c).symm
  case inr.inr.inl =>
    rw [causeHolds_iff_faultOf hf hd, hc, Option.some_inj]
    exact halted_raise_iff ..
  case inr.inr.inr =>
    rw [causeHolds_iff_faultOf hf hd, hc, hrun]
    simp

/-! ## The opcode latch (R40) -/

theorem step_setOpcode {s : State} {w : Word} (hf : s.fetchWord = some w) (v : Word) :
    step (s.setOpcode v) = step s := by
  cases hr : s.runStatus with
  | halted r =>
    rw [step_halted hr]
    exact step_halted (s := s.setOpcode v) hr
  | running =>
    rw [step_word hr hf]
    exact step_word (s := s.setOpcode v) hr hf

/-- Settles O11: every end of a step but a failed fetch holds the fetched word, and the fetch overwrites the old one. -/
theorem fetchLatchesTheOpcode : Obligations.FetchLatchesTheOpcode := by
  unfold Obligations.FetchLatchesTheOpcode
  refine ⟨fun s t w hstep hf => ?latch, fun s t hstep hf => ?keep, fun s w v hf => step_setOpcode hf v⟩
  case latch =>
    rcases step_ends hstep with ⟨hf', -⟩ | ⟨w', hf', -, rfl⟩ | ⟨w', i, c, hf', -, -, rfl⟩ |
      ⟨w', i, hf', -, -, -, -, ho⟩ <;> rw [hf] at hf' <;> cases hf'
    · rfl
    · rfl
    · exact ho
  case keep =>
    rcases step_ends hstep with ⟨-, rfl⟩ | ⟨w', hf', -⟩ | ⟨w', i, c, hf', -⟩ | ⟨w', i, hf', -⟩
    · rfl
    all_goals rw [hf] at hf'; cases hf'

/-! ## Outcomes (R203) -/

theorem outcome_fault_iff (s : State) (r : FaultRecord) : s.outcome = .fault r ↔ s.runStatus = .halted r := by
  unfold State.outcome
  cases s.runStatus with
  | halted r' => simp
  | running => cases s.blocked <;> simp

theorem outcome_blocked_iff (s : State) : s.outcome = .blocked ↔ s.runStatus = .running ∧ s.blocked = true := by
  unfold State.outcome
  cases s.runStatus with
  | halted r => simp
  | running => cases s.blocked <;> simp

theorem blocked_iff (s : State) :
    s.blocked = true ↔ (∃ x, decodeWord s.currentOpcode = .ok (.ldVxK x)) ∧ s.keypad = 0#16 := by
  rw [← lowestKey_eq_none_iff, ← Option.isNone_iff_eq_none]
  unfold State.blocked
  split
  · next x hd => simp [hd]
  · next hno => exact ⟨(absurd · Bool.false_ne_true), fun ⟨⟨x, hd⟩, _⟩ => (hno x hd).elim⟩

/-- A Step at an FX0A with no key down writes the latch alone, and is blocked. -/
theorem stepWith_waiting {s : State} {w : Word} {x : Reg} (rnd : Byte) (hr : s.runStatus = .running)
    (hf : s.fetchWord = some w) (hd : decodeWord w = .ok (.ldVxK x)) (hk : s.keypad = 0#16) :
    stepWith rnd s = s.setOpcode w ∧ (s.setOpcode w).outcome = .blocked := by
  have hstep : step (s.setRndPort (some rnd)) = .next ((s.setRndPort (some rnd)).setOpcode w) :=
    (step_of_decodes (s := s.setRndPort (some rnd)) hr hf hd).trans
      (exec_of_completes (.blocked x ((lowestKey_eq_none_iff _).2 hk)))
  exact ⟨by rw [stepWith, hstep]; rfl,
    (outcome_blocked_iff _).2 ⟨hr, (blocked_iff _).2 ⟨⟨x, hd⟩, hk⟩⟩⟩

/-- A step that leaves a core at an FX0A with no key down executed it. -/
theorem executes_of_blocked {s t : State} (hstep : step s = .next t) (ht : t.runStatus = .running)
    (hb : t.blocked = true) : (∃ x, Executes s (.ldVxK x)) ∧ s.keypad = 0#16 := by
  obtain ⟨⟨x, hd'⟩, hk⟩ := (blocked_iff t).1 hb
  rcases step_ends hstep with ⟨-, rfl⟩ | ⟨w, -, -, rfl⟩ | ⟨w, i, c, -, -, -, rfl⟩ | ⟨w, i, hf, -, -, hx, -, ho⟩
  case inr.inr.inr =>
    rw [ho] at hd'
    rw [(exec_frame hx).keypad] at hk
    exact ⟨⟨x, w, hf, hd'⟩, hk⟩
  all_goals cases ht

/-- Settles O12: an FX0A with no key down is blocked and writes the latch alone (`stepWith_waiting`), nothing else is
blocked (`executes_of_blocked`), and the fault is read from runStatus. -/
theorem stepOutcomesAreExact : Obligations.StepOutcomesAreExact := by
  unfold Obligations.StepOutcomesAreExact
  intro s rnd hr
  have hblocked : (stepWith rnd s).outcome = .blocked → (∃ x, Executes s (.ldVxK x)) ∧ s.keypad = 0#16 := by
    obtain ⟨t, hstep, heq⟩ := stepWith_running rnd hr
    rw [heq, outcome_blocked_iff]
    exact fun ⟨ht, hb⟩ => executes_of_blocked (s := s.setRndPort (some rnd)) hstep ht hb
  simp only [transact, Response.stepped.injEq]
  refine ⟨⟨hblocked, ?_⟩, fun r => outcome_fault_iff _ r, fun h => ?_⟩
  · rintro ⟨⟨x, w, hf, hd⟩, hk⟩
    obtain ⟨heq, hout⟩ := stepWith_waiting rnd hr hf hd hk
    rw [heq, hout]
  · obtain ⟨⟨x, w, hf, hd⟩, hk⟩ := hblocked h
    rw [(stepWith_waiting rnd hr hf hd hk).1, hf]
    rfl

/-! ## Waiting for a key (R216) -/

theorem outcome_of_key_down {s : State} (hr : s.runStatus = .running) (hk : s.keypad ≠ 0#16) :
    s.outcome = .completed := by
  have hb : s.blocked = false := Bool.eq_false_iff.2 fun h => hk ((blocked_iff s).1 h).2
  simp [State.outcome, hr, hb]

/-- A Step at an FX0A with a key down completes and goes on. -/
theorem stepWith_key_down {s : State} {w : Word} {x : Reg} (rnd : Byte) (hr : s.runStatus = .running)
    (hf : s.fetchWord = some w) (hd : decodeWord w = .ok (.ldVxK x)) (hk : s.keypad ≠ 0#16) :
    (stepWith rnd s).outcome = .completed ∧ PcPlus 2 s (stepWith rnd s) := by
  obtain ⟨k, hlow⟩ : ∃ k, s.lowestKey = some k :=
    Option.ne_none_iff_exists'.1 (mt (lowestKey_eq_none_iff s).1 hk)
  have hstep : step (s.setRndPort (some rnd)) =
      .next (((s.setRndPort (some rnd)).setOpcode w).writeV x (keyByte k)).advance :=
    (step_of_decodes (s := s.setRndPort (some rnd)) hr hf hd).trans (exec_of_completes (.ldVxK x k hlow))
  have heq : stepWith rnd s = ((s.setOpcode w).writeV x (keyByte k)).advance := by
    rw [stepWith, hstep]
    rfl
  rw [heq]
  exact ⟨outcome_of_key_down hr hk, pcPlus_advance rfl⟩

/-- Settles O51: a waiting core's Step writes the latch alone (`stepWith_waiting`), and with a key down it completes
(`stepWith_key_down`). -/
theorem waitEndsWithAKey : Obligations.WaitEndsWithAKey := by
  unfold Obligations.WaitEndsWithAKey
  rintro s rnd ⟨hr, hk, w, x, hf, hd⟩
  obtain ⟨heq, hout⟩ := stepWith_waiting rnd hr hf hd hk
  simp only [transact, Response.stepped.injEq, heq]
  exact ⟨hout, ⟨hr, hk, w, x, hf, hd⟩, rfl,
    fun keys hkeys => stepWith_key_down rnd (s := s.setKeypad keys) hr hf hd hkeys⟩

/-! ## The random byte (R89, R146) -/

/-- A step that executes no CXNN does alike whatever is on the random port. -/
theorem step_setRndPort {s t : State} (hno : ∀ x nn, ¬ Executes s (.rnd x nn)) (hstep : step s = .next t)
    (p : Option Byte) : step (s.setRndPort p) = .next (t.setRndPort p) := by
  obtain ⟨hr, ⟨hf, rfl⟩ | ⟨w, hf, hd, rfl⟩ | ⟨w, i, hf, hd, hx⟩⟩ := step_cases hstep
  · exact step_fetch_fault (s := s.setRndPort p) hr hf
  · exact (step_word (s := s.setRndPort p) hr hf).trans (runWord_error hd)
  · have hdraw : drawsByte i = false := by
      cases i
      case rnd x nn => exact absurd ⟨w, hf, hd⟩ (hno x nn)
      all_goals rfl
    have hst : newST i t s.ST = t.ST := by
      cases hw : writesST i with
      | true => simp [newST, hw]
      | false => simp [newST, hw, (exec_frame hx).st hw]
    have h := exec_withPorts s.ST (p := p) (fun h => absurd h (by simp [hdraw])) hx
    rw [hst] at h
    exact (step_of_decodes (s := s.setRndPort p) hr hf hd).trans h

/-- A Step that executes no CXNN leaves what a step without a driven byte leaves. -/
theorem stepWith_of_step {s t : State} (hno : ∀ x nn, ¬ Executes s (.rnd x nn)) (hstep : step s = .next t)
    (rnd : Byte) : stepWith rnd s = t.setRndPort s.rndPort := by
  rw [stepWith, step_setRndPort hno hstep]
  rfl

theorem stepWith_congr_rnd {s : State} (hno : ∀ x nn, ¬ Executes s (.rnd x nn)) (r r' : Byte) :
    stepWith r s = stepWith r' s := by
  cases hr : s.runStatus with
  | halted rec => rw [stepWith_halted r hr, stepWith_halted r' hr]
  | running =>
    obtain ⟨t, hstep⟩ := step_next_of_running hr
    rw [stepWith_of_step hno hstep, stepWith_of_step hno hstep]

/-- A Step that executes CXNN writes the byte AND NN, counts the draw and goes on. -/
theorem stepWith_rnd {s : State} {w : Word} {x : Reg} {nn : Byte} (r : Byte) (hr : s.runStatus = .running)
    (hf : s.fetchWord = some w) (hd : decodeWord w = .ok (.rnd x nn)) :
    stepWith r s = ((s.setOpcode w).countDraw.writeV x (r &&& nn)).advance := by
  have hstep : step (s.setRndPort (some r)) =
      .next (((s.setRndPort (some r)).setOpcode w).countDraw.writeV x (r &&& nn)).advance :=
    (step_of_decodes (s := s.setRndPort (some r)) hr hf hd).trans (exec_of_completes (.rnd x nn))
  rw [stepWith, hstep]
  rfl

/-- Settles O14: no instruction but CXNN reads the random port (`stepWith_congr_rnd`), and CXNN is one register write of
the byte AND NN (`stepWith_rnd`). -/
theorem randomByteIsReadOnlyByRnd : Obligations.RandomByteIsReadOnlyByRnd := by
  unfold Obligations.RandomByteIsReadOnlyByRnd
  refine ⟨fun s r r' hno => ?_, fun s r x nn hr hex => ?_⟩
  · simp only [transact, stepWith_congr_rnd hno r r']
  · obtain ⟨w, hf, hd⟩ := hex
    simp only [transact, stepWith_rnd r hr hf hd]
    refine ⟨by simp [State.advance], fun y hy => ?_, pcPlus_advance rfl⟩
    have hne : y ≠ x := fun h => hy (List.mem_singleton.2 h)
    simp [State.advance, hne, State.countDraw]

/-! ## The self-jump (R123) -/

theorem decodeWord_jp {nnn : Word} (h : nnn.toNat < 4096) : decodeWord (wordOfNNN 0x1 nnn.toNat) = .ok (.jp nnn) := by
  simp [decodeWord, fieldF_wordOfNNN 0x1 h, fieldNNN_wordOfNNN 0x1 h]

/-- A step at a self-jump writes the latch alone. -/
theorem step_selfJump {s : State} (h : s.endSelfJump) : step s = .next (s.setOpcode (0x1000#16 + s.PC)) := by
  obtain ⟨hr, hpc, hf⟩ := h
  have hw : 0x1000#16 + s.PC = wordOfNNN 0x1 s.PC.toNat := by
    apply BitVec.eq_of_toNat_eq
    simp [wordOfNNN, BitVec.toNat_add]
  have hd : decodeWord (0x1000#16 + s.PC) = .ok (.jp s.PC) := hw ▸ decodeWord_jp (by omega)
  exact step_of_decodes hr hf hd

/-- Settles O59: a step at a self-jump leaves the core at it (`step_selfJump`), so any number of them does. -/
theorem selfJumpRunsForEver : Obligations.SelfJumpRunsForEver := by
  unfold Obligations.SelfJumpRunsForEver
  intro n
  induction n with
  | zero => exact fun s h => ⟨s, rfl, h, .inl rfl⟩
  | succ n ih =>
    intro s h
    obtain ⟨t, hrun, ht, heq⟩ := ih (s.setOpcode (0x1000#16 + s.PC)) h
    refine ⟨t, ?_, ht, .inr (heq.elim id id)⟩
    rw [← hrun]
    simp only [Host.Core.run, core, step_selfJump h]

end Sys2Proof.Proofs

/-! SUPPORT. The words of the instructions, the flag writers, and the effect and frame of each instruction with a
statement of its own (40_display.md to 45_timers.md). -/

namespace Sys2Proof.Proofs

open Sys2Proof Sys2Proof.Machine Sys2Proof.Claims

/-! ## A word written by its digits is its instruction's encoding (R81, R83) -/

theorem decodeWord_of_XNN {i : Instr} (f : Nat) (x : Reg) (nn : Byte)
    (hi : encode i = wordXNN (BitVec.ofNat 4 f) x nn) (hwf : i.wf = true) :
    decodeWord (wordOfXNN f x.val nn.toNat) = .ok i := by
  have hw := wordXNN_of_fields (fieldF_wordOfXNN f x nn) (fieldNN_wordOfXNN f x nn)
  rw [fieldX_wordOfXNN, ← hi] at hw
  rw [← hw]
  exact decodeWord_encode hwf

theorem decodeWord_of_XYN {i : Instr} (f : Nat) (x y : Reg) {n : Nat} (hn : n < 16)
    (hi : encode i = wordXYN (BitVec.ofNat 4 f) x y (BitVec.ofNat 4 n)) (hwf : i.wf = true) :
    decodeWord (wordOfXYN f x.val y.val n) = .ok i := by
  have hw := wordXYN_of_fields (fieldF_wordOfXYN f x y hn) (fieldN_wordOfXYN f x y)
  rw [fieldX_wordOfXYN f x y hn, fieldY_wordOfXYN f x y hn, ← hi] at hw
  rw [← hw]
  exact decodeWord_encode hwf

theorem decodeWord_call {nnn : Word} (h : nnn.toNat < 4096) :
    decodeWord (wordOfNNN 0x2 nnn.toNat) = .ok (.call nnn) := by
  simp [decodeWord, fieldF_wordOfNNN 0x2 h, fieldNNN_wordOfNNN 0x2 h]

/-! ## Display (R100) -/

/-- Settles O25: the cells by `Display.cell_clear`, the rest by the frame. -/
theorem clsClearsEveryCell : Obligations.ClsClearsEveryCell := by
  unfold Obligations.ClsClearsEveryCell
  refine ⟨rfl, fun s => ?_⟩
  have hx := exec_of_completes (s := s) .cls
  have F := exec_frame hx
  exact ⟨_, hx, Display.cell_clear, rfl, pcPlus_advance rfl, fun y _ => rfl, F.memoryKept rfl, F.index rfl,
    F.stackKept rfl, F.timersKept rfl rfl, F.inputsKept, statusKept_of_no_fault rfl hx, F.rndCount rfl⟩

/-! ## Jump, call and return (R115 to R117, R124) -/

/-- Settles O28: a jump writes PC alone, and a 12-bit address leaves room for a word unless it is 0xFFF. -/
theorem jpSetsPc : Obligations.JpSetsPc := by
  unfold Obligations.JpSetsPc
  intro nnn s h
  refine ⟨decodeWord_jp h, s.setPC nnn, rfl, rfl, ?frame, ?self, ?fetch⟩
  case frame =>
    simp [OnlyRegsAndPc, RegsKept, MemoryKept, IndexKept, StackKept, TimersKept, DisplayKept, InputsKept, StatusKept,
      DrawsKept]
  case self => rintro rfl; rfl
  case fetch =>
    rw [State.fetchWord_none, State.setPC_PC, ← BitVec.toNat_inj, BitVec.toNat_ofNat]
    omega

/-- A call below 16 entries (R117, R32). -/
theorem exec_call (nnn : Word) {s : State} (h16 : s.SP.val < 16) :
    ∃ t, exec (.call nnn) s = .next t ∧ t.PC = nnn ∧ t.SP.val = s.SP.val + 1 ∧
      (∀ j : Fin 16, j.val = s.SP.val → t.stack[j.val] = s.PC) ∧
      OnlyStackAndPc (fun j => j.val = s.SP.val) s t := by
  have hx := exec_of_completes (.call nnn h16)
  have F := exec_frame hx
  refine ⟨_, hx, rfl, rfl, fun j hj => ?_, fun y _ => rfl, F.memoryKept rfl, F.index rfl, F.timersKept rfl rfl,
    F.displayKept rfl, F.inputsKept, ⟨rfl, rfl⟩, F.rndCount rfl, fun j hj => ?_⟩
  · simp [hj]
  · simp [Ne.symm hj]

/-- A return on a stack in use (R115, R33, R34). -/
theorem exec_ret {s : State} {j : Fin 16} (hj : j.val + 1 = s.SP.val) :
    ∃ t, exec .ret s = .next t ∧ t.PC.toNat = ((s.stack[j.val]).toNat + 2) % 65536 ∧ t.SP.val = j.val ∧
      OnlyStackAndPc (fun _ => False) s t := by
  have hx := exec_of_completes (.ret (s := s) (by omega))
  have F := exec_frame hx
  have hsp : s.SP.val - 1 = j.val := by omega
  refine ⟨_, hx, ?_, hsp, fun y _ => rfl, F.memoryKept rfl, F.index rfl, F.timersKept rfl rfl,
    F.displayKept rfl, F.inputsKept, ⟨rfl, rfl⟩, F.rndCount rfl, fun j _ => rfl⟩
  simp [BitVec.toNat_add, hsp]

/-- Settles O29 by `exec_call`. -/
theorem callPushesItsAddress : Obligations.CallPushesItsAddress := by
  unfold Obligations.CallPushesItsAddress
  exact fun nnn s h => ⟨decodeWord_call h, exec_call nnn⟩

/-- Settles O30 by `exec_ret`. -/
theorem retResumesAfterTheCall : Obligations.RetResumesAfterTheCall := by
  unfold Obligations.RetResumesAfterTheCall
  exact ⟨rfl, fun s j => exec_ret⟩

/-- An instruction that raises a cause takes that fault and does nothing else (R198). -/
theorem exec_takesFault {i : Instr} {s : State} {c : FaultCause} (h : Raises s i c) :
    ∃ t, exec i s = .next t ∧ TakesFault c s t :=
  ⟨_, exec_of_fault (faultOf_of_raises h), rfl⟩

/-- Settles O31: each raises its cause on the bound of SP (`exec_takesFault`). -/
theorem stackBoundsFault : Obligations.StackBoundsFault := by
  unfold Obligations.StackBoundsFault
  exact ⟨fun nnn s h => exec_takesFault ⟨⟨nnn, rfl⟩, h, rfl⟩, fun s h => exec_takesFault ⟨rfl, h, rfl⟩⟩

theorem fetchWord_ret {s : State} (hpc : s.PC.toNat ≤ 0xFFE) (hhi : s.memRead s.PC.toNat = 0x00#8)
    (hlo : s.memRead (s.PC.toNat + 1) = 0xEE#8) : s.fetchWord = some 0x00EE#16 :=
  fetchWord_of_bytes (by omega) (by rw [hhi, hlo]; rfl)

/-- Settles O32: the call (`exec_call`) pushes its own address and goes to `nnn`, where the return (`exec_ret`) pops it
and goes on behind it. -/
theorem callThenReturnResumesAfterTheCall : Obligations.CallThenReturnResumesAfterTheCall := by
  unfold Obligations.CallThenReturnResumesAfterTheCall
  rintro s nnn j hr ⟨w, hf, hd⟩ hj hnnn hhi hlo
  obtain ⟨t, hcall, hpc, hsp, hslot, -, hmem, -, -, -, -, ⟨-, hrt⟩, -, -⟩ :=
    exec_call nnn (s := s.setOpcode w) (hj ▸ j.isLt)
  have hft : t.fetchWord = some 0x00EE#16 := by
    refine fetchWord_ret ?_ ?_ ?_ <;> rw [hpc]
    · exact hnnn
    · exact (hmem _).trans hhi
    · exact (hmem _).trans hlo
  have hrt : t.runStatus = .running := hrt.trans hr
  obtain ⟨u, hret, hpcu, hspu, -, -, -, -, -, -, ⟨-, hru⟩, -, hkept⟩ :=
    exec_ret (s := t.setOpcode 0x00EE#16) (j := j) (by rw [hj]; exact hsp.symm)
  have hslot : t.stack[j.val] = s.PC := hslot j hj
  refine ⟨t, u, (step_of_decodes hr hf hd).trans hcall, (step_of_decodes hrt hft rfl).trans hret, hpc, ?_,
    Fin.ext (hspu.trans hj), (hkept j not_false).trans hslot, hru.trans hrt⟩
  rw [PcPlus, ← hslot]
  exact hpcu

end Sys2Proof.Proofs

/-! SUPPORT. The effect and frame of the register, memory, keypad and timer instructions (42_register_alu.md to
45_timers.md). -/

namespace Sys2Proof.Proofs

open Sys2Proof Sys2Proof.Machine Sys2Proof.Claims

/-! ## Register results without a flag (R136, R138 to R140, R146) -/

/-- Settles O35: one register write that goes on. -/
theorem addImmediateWrapsWithoutAFlag : Obligations.AddImmediateWrapsWithoutAFlag := by
  unfold Obligations.AddImmediateWrapsWithoutAFlag
  intro x nn s
  obtain ⟨t, hx, hv, hframe⟩ := exec_writeV_advance (exec_of_completes (.addImm (s := s) x nn))
  exact ⟨decodeWord_of_XNN 0x7 x nn rfl rfl, t, hx, by rw [hv, BitVec.toNat_add], hframe⟩

/-- Settles O36: each is one register write that goes on, of a value that is bitwise by `BitVec`'s own lemmas. -/
theorem logicIsBitwiseWithoutAFlag : Obligations.LogicIsBitwiseWithoutAFlag := by
  unfold Obligations.LogicIsBitwiseWithoutAFlag
  intro x y s
  refine ⟨⟨decodeWord_of_XYN 0x8 x y (by decide) rfl rfl, ?or⟩, ⟨decodeWord_of_XYN 0x8 x y (by decide) rfl rfl, ?and⟩,
    ⟨decodeWord_of_XYN 0x8 x y (by decide) rfl rfl, ?xor⟩⟩
  case or =>
    obtain ⟨t, hx, hv, hframe⟩ := exec_writeV_advance (exec_of_completes (.or (s := s) x y))
    exact ⟨t, hx, fun k => by rw [hv, BitVec.getLsbD_or], hframe⟩
  case and =>
    obtain ⟨t, hx, hv, hframe⟩ := exec_writeV_advance (exec_of_completes (.and (s := s) x y))
    exact ⟨t, hx, fun k => by rw [hv, BitVec.getLsbD_and], hframe⟩
  case xor =>
    obtain ⟨t, hx, hv, hframe⟩ := exec_writeV_advance (exec_of_completes (.xor (s := s) x y))
    exact ⟨t, hx, fun k => by rw [hv, BitVec.getLsbD_xor], hframe⟩

/-- Settles O40: the draw is masked by NN; the frame leaves out the model's count of draws alone. -/
theorem rndMasksTheDraw : Obligations.RndMasksTheDraw := by
  unfold Obligations.RndMasksTheDraw
  intro x nn s
  have hx := exec_of_completes (.rnd (s := s) x nn)
  have F := exec_frame hx
  refine ⟨decodeWord_of_XNN 0xC x nn rfl rfl, _, hx, fun k hk => ?_, fun r hr => ?_, pcPlus_advance rfl, fun y hy => ?_,
    F.memoryKept rfl, F.index rfl, F.stackKept rfl, F.timersKept rfl rfl, F.displayKept rfl, F.inputsKept, ⟨rfl, rfl⟩⟩
  · simp [State.advance, hk]
  · simp [State.advance, State.rndByte, hr]
  · have hne : y ≠ x := fun h => hy (List.mem_singleton.2 h)
    simp [State.advance, State.countDraw, hne]

/-! ## Register results with a flag (R131, R132, R141 to R145) -/

/-- An instruction whose meaning is a result in `V[x]` and then the flag `b`. -/
theorem exec_writeWithFlag_advance {i : Instr} {s : State} {x : Reg} {v : Byte} {b : Bool}
    (hx : exec i s = .next (s.writeWithFlag x v b).advance) :
    ∃ t, exec i s = .next t ∧ (x ≠ VF → t.readV x = v) ∧ t.readV VF = (if b then 1#8 else 0#8) ∧ PcPlus 2 s t ∧
      OnlyRegsAndPc [x, VF] s t := by
  have hregs : RegsKept [x, VF] s (s.writeWithFlag x v b).advance := by
    intro y hy
    obtain ⟨hyx, hyF⟩ : y ≠ x ∧ y ≠ VF := by simpa using hy
    simp [State.advance, State.readV_writeWithFlag, hyx, hyF]
  refine ⟨_, hx, fun hF => ?_, readV_VF_writeWithFlag s x v b, pcPlus_advance rfl, hregs, ?_⟩
  · simp [State.advance, State.readV_writeWithFlag, hF]
  · simp [MemoryKept, IndexKept, StackKept, TimersKept, DisplayKept, InputsKept, StatusKept, DrawsKept, State.advance,
      State.writeWithFlag, State.writeV]

/-- Settles O37: a result with the carry as its flag (`exec_writeWithFlag_advance`). -/
theorem addWritesSumThenCarry : Obligations.AddWritesSumThenCarry := by
  unfold Obligations.AddWritesSumThenCarry
  intro x y s
  obtain ⟨t, hx, hv, hF, hframe⟩ := exec_writeWithFlag_advance (exec_of_completes (.addReg (s := s) x y))
  refine ⟨decodeWord_of_XYN 0x8 x y (by decide) rfl rfl, t, hx, fun h => ?_, ?_, hframe⟩
  · rw [hv h, BitVec.toNat_add]
  · simpa [carry] using hF

theorem toNat_sub_byte (a b : Byte) : (a - b).toNat = (a.toNat + 256 - b.toNat) % 256 := by
  rw [BitVec.toNat_sub]
  omega

/-- Settles O38: a result with no-borrow as its flag (`exec_writeWithFlag_advance`), the operands swapped in 8XY7. -/
theorem subtractWritesDifferenceThenNoBorrow : Obligations.SubtractWritesDifferenceThenNoBorrow := by
  unfold Obligations.SubtractWritesDifferenceThenNoBorrow
  intro x y s
  refine ⟨⟨decodeWord_of_XYN 0x8 x y (by decide) rfl rfl, ?sub⟩, ⟨decodeWord_of_XYN 0x8 x y (by decide) rfl rfl, ?subn⟩⟩
  case sub =>
    obtain ⟨t, hx, hv, hF, hframe⟩ := exec_writeWithFlag_advance (exec_of_completes (.sub (s := s) x y))
    exact ⟨t, hx, fun h => by rw [hv h, toNat_sub_byte], by simpa [noBorrow] using hF, hframe⟩
  case subn =>
    obtain ⟨t, hx, hv, hF, hframe⟩ := exec_writeWithFlag_advance (exec_of_completes (.subn (s := s) x y))
    exact ⟨t, hx, fun h => by rw [hv h, toNat_sub_byte], by simpa [noBorrow] using hF, hframe⟩

theorem toNat_flag_bit (a : Byte) (k : Nat) :
    (if a.getLsbD k = true then 1#8 else 0#8).toNat = a.toNat / 2 ^ k % 2 := by
  rw [BitVec.getLsbD, Nat.testBit_eq_decide_div_mod_eq]
  by_cases h : a.toNat / 2 ^ k % 2 = 1
  · simp [h]
  · simp [h]; omega

/-- Settles O39: a result with the bit shifted out as its flag (`exec_writeWithFlag_advance`). -/
theorem shiftsWriteResultThenBitOut : Obligations.ShiftsWriteResultThenBitOut := by
  unfold Obligations.ShiftsWriteResultThenBitOut
  intro x y s
  refine ⟨⟨decodeWord_of_XYN 0x8 x y (by decide) rfl rfl, ?shr⟩, ⟨decodeWord_of_XYN 0x8 x y (by decide) rfl rfl, ?shl⟩⟩
  case shr =>
    obtain ⟨t, hx, hv, hF, hframe⟩ := exec_writeWithFlag_advance (exec_of_completes (.shr (s := s) x y))
    refine ⟨t, hx, fun h => ?_, ?_, hframe⟩
    · rw [hv h, BitVec.toNat_ushiftRight, Nat.shiftRight_one]
    · rw [hF, shiftedOutRight, toNat_flag_bit, Nat.pow_zero, Nat.div_one]
  case shl =>
    obtain ⟨t, hx, hv, hF, hframe⟩ := exec_writeWithFlag_advance (exec_of_completes (.shl (s := s) x y))
    refine ⟨t, hx, fun h => ?_, ?_, hframe⟩
    · rw [hv h, BitVec.toNat_shiftLeft, Nat.shiftLeft_eq]
    · rw [hF, shiftedOutLeft, toNat_flag_bit]
      omega

/-! ## I and memory (R161 to R165) -/

/-- Settles O42: each is one index write that goes on. -/
theorem indexArithmetic : Obligations.IndexArithmetic := by
  unfold Obligations.IndexArithmetic
  intro x s
  refine ⟨⟨decodeWord_of_XNN 0xF x 0x1E#8 rfl rfl, ?addI⟩, ⟨decodeWord_of_XNN 0xF x 0x29#8 rfl rfl, ?ldF⟩⟩
  case addI =>
    obtain ⟨t, hx, hI, hframe⟩ := exec_setI_advance (exec_of_completes (.addI (s := s) x))
    exact ⟨t, hx, by rw [hI, toNat_addI], hframe⟩
  case ldF =>
    obtain ⟨t, hx, hI, hframe⟩ := exec_setI_advance (exec_of_completes (.ldF (s := s) x))
    exact ⟨t, hx, by rw [hI, toNat_fontAddress], hframe⟩

/-- An instruction whose meaning is a store of `bs` at I: the bytes stand there, and nothing else changes but PC. -/
theorem exec_storeBytes_advance {i : Instr} {s : State} {bs : List Byte}
    (hx : exec i s = .next (s.storeBytes s.addrI bs).advance) :
    ∃ t, exec i s = .next t ∧ (∀ (k : Nat) (h : k < bs.length), t.memRead (s.I.toNat + k) = bs[k]) ∧ PcPlus 2 s t ∧
      OnlyBytesAndPc s.I.toNat bs.length s t := by
  refine ⟨_, hx, State.memRead_storeBytes_inside s _ bs, pcPlus_advance (State.storeBytes_PC _ _ _), ?_⟩
  refine ⟨?_, State.memRead_storeBytes_outside s _ bs, ?_⟩
  · intro y _
    simp [State.advance]
  · simp [IndexKept, StackKept, TimersKept, DisplayKept, InputsKept, StatusKept, DrawsKept, State.advance]

theorem toNat_digit {n : Nat} (h : n < 256) : (BitVec.ofNat 8 n).toNat = n := Nat.mod_eq_of_lt h

/-- Settles O43: one store of the three digits (`exec_storeBytes_advance`), each below 256. -/
theorem bcdStoresThreeDigits : Obligations.BcdStoresThreeDigits := by
  unfold Obligations.BcdStoresThreeDigits
  intro x s h
  have hd : s.dataOk 3 = true := (dataOk_iff s 3).2 (.inr (by omega))
  obtain ⟨t, hx, hbytes, hframe⟩ := exec_storeBytes_advance (exec_of_completes (.ldB x hd))
  refine ⟨decodeWord_of_XNN 0xF x 0x33#8 rfl rfl, t, hx, ?_, ?_, ?_, hframe⟩
  · exact (congrArg BitVec.toNat (hbytes 0 (by simp))).trans (toNat_digit (by omega))
  · exact (congrArg BitVec.toNat (hbytes 1 (by simp))).trans (toNat_digit (by omega))
  · exact (congrArg BitVec.toNat (hbytes 2 (by simp))).trans (toNat_digit (by omega))

/-- FX55 in bounds (R164). -/
theorem exec_ldMemVx {x : Reg} {s : State} (h : s.I.toNat + x.val ≤ 0xFFF) :
    ∃ t, exec (.ldMemVx x) s = .next t ∧ (∀ k : Reg, k ≤ x → t.memRead (s.I.toNat + k.val) = s.readV k) ∧
      PcPlus 2 s t ∧ OnlyBytesAndPc s.I.toNat (x.val + 1) s t := by
  have hd : s.dataOk (x.val + 1) = true := (dataOk_iff s _).2 (.inr (by omega))
  obtain ⟨t, hx, hbytes, hpc, hframe⟩ := exec_storeBytes_advance (exec_of_completes (.ldMemVx x hd))
  rw [State.blockOf_length] at hframe
  refine ⟨t, hx, fun k hk => ?_, hpc, hframe⟩
  have hlen : k.val < (s.blockOf x).length := by
    rw [State.blockOf_length]
    exact Nat.lt_succ_of_le hk
  rw [hbytes k.val hlen, State.blockOf_getElem s x k.val hlen k.isLt]

/-- Settles O44 by `exec_ldMemVx`. -/
theorem blockStoreCopiesRegisters : Obligations.BlockStoreCopiesRegisters := by
  unfold Obligations.BlockStoreCopiesRegisters
  exact fun x s h => ⟨decodeWord_of_XNN 0xF x 0x55#8 rfl rfl, exec_ldMemVx h⟩

/-- Settles O47: the two bytes the store left at PC are the big-endian word of the fetch. -/
theorem storedBytesAreFetched : Obligations.StoredBytesAreFetched := by
  unfold Obligations.StoredBytesAreFetched
  intro x k k' s t h hkk' hk'x hx hpc
  obtain ⟨u, hu, hbytes, -⟩ := exec_ldMemVx h
  cases exec_det hx hu
  have hk'x : k'.val ≤ x.val := hk'x
  have hkx : k ≤ x := Fin.le_def.2 (by omega)
  refine ⟨_, fetchWord_eq_some (by omega), ?_⟩
  rw [toNat_wordOfBytes, hpc, hbytes k hkx, Nat.add_assoc, hkk', hbytes k' hk'x]

/-- Settles O45: every listed register takes its byte (`State.readV_loadRegs`), the rest by the frame. -/
theorem blockLoadCopiesMemory : Obligations.BlockLoadCopiesMemory := by
  unfold Obligations.BlockLoadCopiesMemory
  intro x s h
  have hd : s.dataOk (x.val + 1) = true := (dataOk_iff s _).2 (.inr (by omega))
  have hx := exec_of_completes (.ldVxMem x hd)
  have F := exec_frame hx
  have hregs : ∀ k, (s.loadRegs s.addrI (regsUpTo x)).advance.readV k =
      if k ≤ x then s.memRead (s.I.toNat + k.val) else s.readV k := fun k => by
    simp [State.advance, State.readV_loadRegs, State.mem_regsUpTo, State.addrI]
  refine ⟨decodeWord_of_XNN 0xF x 0x65#8 rfl rfl, _, hx, fun k hk => ?_, fun k hk => ?_,
    pcPlus_advance (State.loadRegs_PC _ _ _), F.memoryKept rfl, F.index rfl, F.stackKept rfl, F.timersKept rfl rfl,
    F.displayKept rfl, F.inputsKept, statusKept_of_no_fault (by simp [faultOf, hd]) hx, F.rndCount rfl⟩
  · rw [hregs, if_pos hk]
  · rw [hregs, if_neg (not_le.2 hk)]

/-- Settles O46: the range past the end is the condition of the cause (`exec_takesFault`). -/
theorem dataRangesPastTheEndFault : Obligations.DataRangesPastTheEndFault := by
  unfold Obligations.DataRangesPastTheEndFault
  exact fun i s hpos hend => exec_takesFault ⟨rfl, rfl, hpos, hend⟩

/-! ## The keypad (R175 to R178) -/

/-- Settles O48: each is a skip on the key `V[X]` names. -/
theorem keySkipsTestTheKey : Obligations.KeySkipsTestTheKey := by
  unfold Obligations.KeySkipsTestTheKey
  intro x s h
  have hlt : (s.readV x).toNat < 16 := by omega
  refine ⟨⟨decodeWord_of_XNN 0xE x 0x9E#8 rfl rfl, ?skp⟩, ⟨decodeWord_of_XNN 0xE x 0xA1#8 rfl rfl, ?sknp⟩⟩
  case skp => exact exec_skipIf (exec_of_completes (.skp x ⟨_, hlt⟩ rfl)) id id
  case sknp =>
    exact exec_skipIf (exec_of_completes (.sknp x ⟨_, hlt⟩ rfl)) (Bool.not_eq_true' _).mpr (Bool.not_eq_false' _).mpr

/-- Settles O49: the key index above 15 is the condition of the cause (`exec_takesFault`). -/
theorem keyIndexAboveFifteenFaults : Obligations.KeyIndexAboveFifteenFaults := by
  unfold Obligations.KeyIndexAboveFifteenFaults
  exact fun x s h => ⟨exec_takesFault ⟨x, .inl rfl, rfl, h, rfl⟩, exec_takesFault ⟨x, .inr rfl, rfl, h, rfl⟩⟩

/-- The lowest key is the one that is down with none below it down. -/
theorem lowestKey_eq_some {s : State} {k : Reg} (hk : s.keyDown k = true) (hlow : ∀ j < k, s.keyDown j = false) :
    s.lowestKey = some k := by
  cases h : s.lowestKey with
  | none => exact absurd ((State.lowestKey_none s).1 h k) (by simp [hk])
  | some j =>
    obtain ⟨hj, hjlow⟩ := State.lowestKey_some h
    rcases lt_trichotomy j k with hjk | rfl | hkj
    · exact absurd (hlow j hjk) (by simp [hj])
    · rfl
    · exact absurd (hjlow k hkj) (by simp [hk])

theorem toNat_keyByte (k : Reg) : (keyByte k).toNat = k.val := by
  rw [keyByte, BitVec.toNat_ofNat]
  omega

/-- Settles O50: one write of the lowest key (`lowestKey_eq_some`), or nothing at all. -/
theorem waitForKeyTakesTheLowest : Obligations.WaitForKeyTakesTheLowest := by
  unfold Obligations.WaitForKeyTakesTheLowest
  intro x s
  refine ⟨decodeWord_of_XNN 0xF x 0x0A#8 rfl rfl, fun k hk hlow => ?_, fun h0 => ?_⟩
  · obtain ⟨t, hx, hv, hframe⟩ := exec_writeV_advance (exec_of_completes (.ldVxK x k (lowestKey_eq_some hk hlow)))
    exact ⟨t, hx, by rw [hv, toNat_keyByte], hframe⟩
  · exact exec_of_completes (.blocked x ((lowestKey_eq_none_iff s).2 h0))

/-! ## The timers (R185 to R187) -/

/-- Settles O52: with the timer it writes put back, a timer write is an `advance`. -/
theorem timerInstructionsMoveOneByte : Obligations.TimerInstructionsMoveOneByte := by
  unfold Obligations.TimerInstructionsMoveOneByte
  intro x s
  refine ⟨⟨decodeWord_of_XNN 0xF x 0x07#8 rfl rfl, ?ldVxDt⟩, ⟨decodeWord_of_XNN 0xF x 0x15#8 rfl rfl, ?ldDtVx⟩,
    ⟨decodeWord_of_XNN 0xF x 0x18#8 rfl rfl, ?ldStVx⟩⟩
  case ldVxDt => exact exec_writeV_advance (exec_of_completes (.ldVxDt x))
  case ldDtVx =>
    exact ⟨_, exec_of_completes (.ldDtVx x), rfl, rfl, pcPlus_advance rfl, onlyRegsAndPc_skipIf s false⟩
  case ldStVx =>
    exact ⟨_, exec_of_completes (.ldStVx x), rfl, rfl, pcPlus_advance rfl, bne_iff_ne, onlyRegsAndPc_skipIf s false⟩

end Sys2Proof.Proofs

/-! SUPPORT. The host's transactions (10_state.md R44): ticks, a halted core, the inputs and read ports, LoadProgram and
Initialize. -/

namespace Sys2Proof.Proofs

open Sys2Proof Sys2Proof.Machine Sys2Proof.Claims

/-! ## Ticks (R210) -/

/-- Settles O53: one Tick takes 1 from each timer (`toNat_countDown`) and writes nothing else. -/
theorem ticksCountDownToZero : Obligations.TicksCountDownToZero := by
  unfold Obligations.TicksCountDownToZero
  intro k
  induction k with
  | zero => exact fun s => ⟨rfl, rfl, rfl⟩
  | succ k ih =>
    intro s
    obtain ⟨hd, hs, hrest⟩ := ih (tick s)
    have hdt : (tick s).DT.toNat = s.DT.toNat - 1 := toNat_countDown s.DT
    have hst : (tick s).ST.toNat = s.ST.toNat - 1 := toNat_countDown s.ST
    rw [List.replicate_succ]
    refine ⟨hd.trans (by omega), hs.trans (by omega), ?_⟩
    exact congrArg (fun u : State => { u with DT := s.DT, ST := s.ST }) hrest

/-! ## A halted core (R200) -/

theorem frozenAlike_trans {s t u : State} (h : FrozenAlike s t) (h' : FrozenAlike t u) : FrozenAlike s u := by
  unfold FrozenAlike at *
  simp_all

/-- A transaction other than Initialize leaves a halted core's frozen parts. -/
theorem frozenAlike_transact {s : State} {r : FaultRecord} (hr : s.runStatus = .halted r) {tr : Transaction}
    (hi : isInit tr = false) : FrozenAlike s (transact tr s).1 := by
  cases tr
  case initCore => cases hi
  case loadProgram bytes readOk =>
    simp only [transact, loadProgram]
    split
    · simp [FrozenAlike]
    · split <;> simp [FrozenAlike]
  case step rnd => simp [transact, stepWith_halted rnd hr, FrozenAlike]
  case tick | setKeypad | clearRedraw | read => exact ⟨rfl, rfl, rfl, rfl, rfl, rfl, rfl, rfl, rfl⟩

theorem frozenAlike_schedule {r : FaultRecord} (trs : List Transaction) :
    ∀ {s : State}, s.runStatus = .halted r → (∀ tr ∈ trs, isInit tr = false) → FrozenAlike s (schedule trs s) := by
  induction trs with
  | nil => exact fun _ _ => ⟨rfl, rfl, rfl, rfl, rfl, rfl, rfl, rfl, rfl⟩
  | cons tr rest ih =>
    intro s hr hi
    have h := frozenAlike_transact hr (hi tr List.mem_cons_self)
    obtain ⟨-, -, -, -, -, -, -, hstatus, -⟩ := id h
    exact frozenAlike_trans h (ih (hstatus.trans hr) fun tr' h' => hi tr' (List.mem_cons_of_mem _ h'))

/-- Settles O55: a Step of a halted core changes nothing, no transaction but Initialize touches the frozen parts, and
Initialize is State.reset with a font. -/
theorem haltedCoreStaysHalted : Obligations.HaltedCoreStaysHalted := by
  unfold Obligations.HaltedCoreStaysHalted
  intro s r hr
  refine ⟨step_halted hr, fun rnd => ?_, fun trs => frozenAlike_schedule trs hr, fun font => ?_⟩
  · rw [transact, stepWith_halted rnd hr, (outcome_fault_iff s r).2 hr]
  · simp [transact, initCore, State.reset]

/-! ## Inputs and read ports (R44) -/

/-- Settles O56: each is one named update of the state. -/
theorem inputTransactionsWriteOneField : Obligations.InputTransactionsWriteOneField := by
  unfold Obligations.InputTransactionsWriteOneField
  exact fun s keys port => ⟨rfl, rfl, rfl⟩

theorem ofBool_eq_ite (b : Bool) : BitVec.ofBool b = if b = true then 1#1 else 0#1 := by cases b <;> rfl

theorem ofBool_soundActive (s : State) : BitVec.ofBool s.soundActive = if s.ST = 0#8 then 0#1 else 1#1 := by
  rw [ofBool_eq_ite, soundActive_eq]
  by_cases h : s.ST = 0#8 <;> simp [h]

theorem ofBool_isHalted (s : State) :
    (BitVec.ofBool s.isHalted = 1#1 ↔ ∃ r, s.runStatus = .halted r) ∧
    (BitVec.ofBool s.isHalted = 0#1 ↔ s.runStatus = .running) := by
  unfold State.isHalted
  cases s.runStatus with
  | halted r => simp
  | running => simp

theorem value_bit_inj (v w : BitVec 1) : Response.value (.bit v) = .value (.bit w) ↔ v = w := by simp

/-- Settles O60: each port shows its field; the one-bit ports by `ofBool_eq_ite`, `ofBool_soundActive` and
`ofBool_isHalted`. -/
theorem readPortsShowTheState : Obligations.ReadPortsShowTheState := by
  unfold Obligations.ReadPortsShowTheState
  intro s x y v j a
  obtain ⟨hhalted, hrunning⟩ := ofBool_isHalted s
  exact ⟨(value_bit_inj ..).2 (ofBool_eq_ite _), (value_bit_inj ..).2 (ofBool_eq_ite _), rfl, rfl,
    (value_bit_inj ..).2 (ofBool_soundActive s), rfl, rfl, (value_bit_inj ..).trans hhalted,
    (value_bit_inj ..).trans hrunning, rfl, rfl, rfl, rfl, rfl, rfl⟩

/-! ## LoadProgram (R68) -/

/-- Settles O57: LoadProgram is its two checks and then one store at 0x200. -/
theorem loadProgramCopiesTheRom : Obligations.LoadProgramCopiesTheRom := by
  unfold Obligations.LoadProgramCopiesTheRom
  intro bytes s
  refine ⟨rfl, fun h => ?large, fun h => ?fits⟩
  case large => simp [transact, loadProgram, Config.maxRom, h]
  case fits =>
    have hload : loadProgram bytes true s = (s.storeBytes 0x200 bytes, .ok) := by
      simp [loadProgram, Config.maxRom, Config.progBase, Nat.not_lt.2 h]
    simp only [transact, hload]
    refine ⟨trivial, State.memRead_storeBytes_inside s 0x200 bytes, State.memRead_storeBytes_outside s 0x200 bytes, ?_⟩
    rw [State.storeBytes_eq]
    rfl

/-! ## Initialize (R46, R230) -/

theorem background_outside_font {a : Nat} (h : a < 0x050 ∨ 0x0A0 ≤ a) : Memory.background a = 0#8 := by
  unfold Memory.background
  split
  · next hlo =>
    rw [List.getD_eq_default]
    simp [Config.fontBase, fontGlyphs] at hlo ⊢
    omega
  · rfl

theorem background_font {k : Nat} (h : k < fontGlyphs.length) :
    Memory.background (Config.fontBase + k) = fontGlyphs[k] := by
  rw [Memory.background, if_pos (Nat.le_add_right _ _), Nat.add_sub_cancel_left, List.getD_eq_getElem _ _ h]

/-- The default table is what memory reads as where nothing is listed (log 2), so Initialize with it lists nothing. -/
theorem memory_defaultFont : (State.reset.storeBytes Config.fontBase defaultFont.toList).memory = [] := by
  have hfont : defaultFont.toList = fontGlyphs := rfl
  rw [hfont]
  refine Memory.ext_of_wf (State.wf_storeBytes _ _ _ Memory.wf_nil (by decide)) Memory.wf_nil fun a => ?_
  have hread := State.memRead_storeBytes State.reset Config.fontBase fontGlyphs a
  split at hread
  · next h =>
    obtain ⟨k, rfl⟩ : ∃ k, a = Config.fontBase + k := ⟨a - Config.fontBase, by omega⟩
    have hk : k < fontGlyphs.length := by omega
    exact (State.memRead_storeBytes_inside _ _ _ k hk).trans (background_font hk).symm
  · exact hread

/-- Settles O58: Initialize stores the font over State.reset, whose fields have R46's values. -/
theorem initializeGivesTheResetState : Obligations.InitializeGivesTheResetState := by
  unfold Obligations.InitializeGivesTheResetState
  refine ⟨?_, ?_⟩
  · rintro font s t rfl
    have hfont : ∀ (k : Nat) (h : k < 80), (initCore font s).memRead (0x050 + k) = font[k] := fun k h =>
      (State.memRead_storeBytes_inside State.reset _ font.toList k (by simpa using h)).trans (by simp)
    have hzero : ∀ a, a < 0x050 ∨ 0x0A0 ≤ a → (initCore font s).memRead a = 0#8 := fun a h =>
      (State.memRead_storeBytes_outside State.reset _ font.toList a (by simpa [Config.fontBase] using h)).trans
        (background_outside_font h)
    refine ⟨hfont, hzero, ?_⟩
    simp [transact, initCore, State.reset, State.readV, State.FB, Display.cell]
  · rw [transact, initCore, State.storeBytes_eq, memory_defaultFont]
    rfl

end Sys2Proof.Proofs
